-- ==== Sys2Proof/Word.lean ====
section
/-! DEFINITION. The word types of the core: every register is a 32-bit unsigned word (00_scope.md R7), the LPUART cell
and the FIFO entries are bytes (10_state.md R22, R58), a descriptor's offset field has 24 bits (30_encoding.md R90). -/

namespace Sys2Proof

/-- A register value, a data word or an access descriptor: the spec's u32 (00_scope.md R7, R9). -/
abbrev Word := BitVec 32

/-- A byte of the LPUART cell or of an LPSPI FIFO. -/
abbrev Byte := BitVec 8

/-- The offset (or event number) field O of an access descriptor (30_encoding.md R90). -/
abbrev Offset := BitVec 24

end Sys2Proof
end

