-- ==== Sys2Proof/Syntax.lean ====
section
/-! DEFINITION. The syntax of host calls: the raw call a host makes (an access descriptor and its operand, 30_encoding.md
R90), and the instruction it spells, one constructor for each row of spec/opcode_table.json. -/

namespace Sys2Proof

/-- The two blocks of the core (field B of a descriptor, 30_encoding.md R90). -/
inductive Block where
  | uart
  | spi
deriving DecidableEq, Repr

/-- The direction of a register access (K = 0 or K = 1). -/
inductive Dir where
  | read
  | write
deriving DecidableEq, Repr

/-- The kinds of call that have a meaning (K = 0, 1, 2); K = 3 is reserved. -/
inductive Kind where
  | read
  | write
  | event
deriving DecidableEq, Repr

/-- The access sizes the model refuses: one byte (S = 0) and two bytes (S = 1). -/
inductive SubSize where
  | byte
  | half
deriving DecidableEq, Repr

/-- A host call as it stands before decoding: the access descriptor and the word carried beside it. A write's operand is
the u32 V, the byte-in event's byte b is bits 7:0 of it, and no other call reads it (30_encoding.md R90; log 2). -/
structure Call where
  descriptor : Word
  operand    : Word
deriving DecidableEq, Repr

/-- The fields of an access descriptor (30_encoding.md R90): B (bit 31), K (30:29), S (28:27), Z (26:24), O (23:0). -/
structure Fields where
  b : Block
  k : BitVec 2
  s : BitVec 2
  z : BitVec 3
  o : Offset
deriving DecidableEq, Repr

/-- Why a sequence of bytes is no call record. -/
inductive DecodeReject where
  /-- The record does not have the eight bytes of a descriptor and an operand. -/
  | wrongLength (n : Nat)
deriving DecidableEq, Repr

/-- The operations of the core, one for each row of spec/opcode_table.json, in the table's order. -/
inductive Instr where
  /-- `RD.UART.BAUD` (41_lpuart.md R137). -/
  | rdUartBaud
  /-- `RD.UART.STAT` (R138). -/
  | rdUartStat
  /-- `RD.UART.CTRL` (R140). -/
  | rdUartCtrl
  /-- `RD.UART.DATA` (R139). -/
  | rdUartData
  /-- `WR.UART.BAUD` (R132). -/
  | wrUartBaud (v : Word)
  /-- `WR.UART.STAT` (R134). -/
  | wrUartStat (v : Word)
  /-- `WR.UART.CTRL` (R135). -/
  | wrUartCtrl (v : Word)
  /-- `WR.UART.DATA` (R136). -/
  | wrUartData (v : Word)
  /-- `RD.SPI.VERID` (42_lpspi_registers.md R162). -/
  | rdSpiVerid
  /-- `RD.SPI.PARAM` (R164). -/
  | rdSpiParam
  /-- `RD.SPI.CR` (R167). -/
  | rdSpiCr
  /-- `RD.SPI.SR` (R169). -/
  | rdSpiSr
  /-- `RD.SPI.IER` (R171). -/
  | rdSpiIer
  /-- `RD.SPI.DER` (R173). -/
  | rdSpiDer
  /-- `RD.SPI.CFGR0` (R175). -/
  | rdSpiCfgr0
  /-- `RD.SPI.CFGR1` (R177). -/
  | rdSpiCfgr1
  /-- `RD.SPI.CCR` (R179). -/
  | rdSpiCcr
  /-- `RD.SPI.FCR` (R181). -/
  | rdSpiFcr
  /-- `RD.SPI.FSR` (R183). -/
  | rdSpiFsr
  /-- `RD.SPI.TCR` (R185). -/
  | rdSpiTcr
  /-- `RD.SPI.TDR` (40_regbank_irq.md R117). -/
  | rdSpiTdr
  /-- `RD.SPI.RSR` (R188). -/
  | rdSpiRsr
  /-- `RD.SPI.RDR` (R190). -/
  | rdSpiRdr
  /-- `WR.SPI.VERID` (R163). -/
  | wrSpiVerid (v : Word)
  /-- `WR.SPI.PARAM` (R165). -/
  | wrSpiParam (v : Word)
  /-- `WR.SPI.CR` (R166). -/
  | wrSpiCr (v : Word)
  /-- `WR.SPI.SR` (R168). -/
  | wrSpiSr (v : Word)
  /-- `WR.SPI.IER` (R170). -/
  | wrSpiIer (v : Word)
  /-- `WR.SPI.DER` (R172). -/
  | wrSpiDer (v : Word)
  /-- `WR.SPI.CFGR0` (R174). -/
  | wrSpiCfgr0 (v : Word)
  /-- `WR.SPI.CFGR1` (R176). -/
  | wrSpiCfgr1 (v : Word)
  /-- `WR.SPI.CCR` (R178). -/
  | wrSpiCcr (v : Word)
  /-- `WR.SPI.FCR` (R180). -/
  | wrSpiFcr (v : Word)
  /-- `WR.SPI.FSR` (R182). -/
  | wrSpiFsr (v : Word)
  /-- `WR.SPI.TCR` (R184). -/
  | wrSpiTcr (v : Word)
  /-- `WR.SPI.TDR` (R186). -/
  | wrSpiTdr (v : Word)
  /-- `WR.SPI.RSR` (R187). -/
  | wrSpiRsr (v : Word)
  /-- `WR.SPI.RDR` (R189). -/
  | wrSpiRdr (v : Word)
  /-- `RST.UART` (R131). -/
  | rstUart
  /-- `EV.UART.RXBYTE` (R141). -/
  | evUartRxbyte (b : Byte)
  /-- `RST.SPI` (R160). -/
  | rstSpi
  /-- `RESERVED.K3` (30_encoding.md R92 step 1): K = 3, with the other fields as they stand. -/
  | reservedK3 (b : Block) (s : BitVec 2) (z : BitVec 3) (o : Offset)
  /-- `RESERVED.Z0`: Z bit 24 set; `z21` is bits 26:25. -/
  | reservedZ0 (b : Block) (k : Kind) (s : BitVec 2) (z21 : BitVec 2) (o : Offset)
  /-- `RESERVED.Z1`: Z bit 25 set and bit 24 clear; `z2` is bit 26. -/
  | reservedZ1 (b : Block) (k : Kind) (s : BitVec 2) (z2 : BitVec 1) (o : Offset)
  /-- `RESERVED.Z2`: Z is bit 26 alone. -/
  | reservedZ2 (b : Block) (k : Kind) (s : BitVec 2) (o : Offset)
  /-- `RESERVED.S3`: a register access with the reserved size code 3. -/
  | reservedS3 (b : Block) (d : Dir) (o : Offset)
  /-- `SUBWORD`: a register access of one or two bytes (20_memory.md R73). -/
  | subword (b : Block) (d : Dir) (n : SubSize) (o : Offset)
  /-- `MISALIGNED.B0`: a 4-byte access whose offset has bit 0 set (R74). -/
  | misalignedB0 (b : Block) (d : Dir) (o : Offset)
  /-- `MISALIGNED.B1`: a 4-byte access whose offset ends in the bits 10 (R74). -/
  | misalignedB1 (b : Block) (d : Dir) (o : Offset)
  /-- `RD.UART.UNMAPPED` (40_regbank_irq.md R114, R115). -/
  | rdUartUnmapped (o : Offset)
  /-- `WR.UART.UNMAPPED` (R114, R115). -/
  | wrUartUnmapped (o : Offset) (v : Word)
  /-- `RD.SPI.UNMAPPED` (R114, R115). -/
  | rdSpiUnmapped (o : Offset)
  /-- `WR.SPI.UNMAPPED` (R114, R115). -/
  | wrSpiUnmapped (o : Offset) (v : Word)
  /-- `EV.RESERVED`: an event that no event row matches (R91). -/
  | evReserved (b : Block) (s : BitVec 2) (o : Offset)
deriving DecidableEq, Repr

end Sys2Proof
end

