-- ==== Sys2Proof/Machine/RegisterMap.lean ====
section
/-! DEFINITION. The register maps of the two blocks (10_state.md R23 to R26, R41; 41_lpuart.md R130; 42_lpspi_registers.md
R161), the access class of each register (40_regbank_irq.md R111, R112), and the named fields of the registers (10_state.md R23 to
R25, R44 to R55). -/

namespace Sys2Proof

/-- The access classes the dispatcher enforces (40_regbank_irq.md R111). `handlers` is LPUART DATA, which has a read
handler and a write handler and no storage (R112). -/
inductive AccessClass where
  | rw
  | ro
  | w1c (mask : Word)
  | wo
  | handlers
deriving DecidableEq, Repr

/-- The registers of the LPUART map (41_lpuart.md R130). -/
inductive UartReg where
  | baud | stat | ctrl | data
deriving DecidableEq, Repr

/-- The registers of the LPSPI map (42_lpspi_registers.md R161). -/
inductive SpiReg where
  | verid | param | cr | sr | ier | der | cfgr0 | cfgr1 | ccr | fcr | fsr | tcr | tdr | rsr | rdr
deriving DecidableEq, Repr

/-- A register of either block, as host programs name it: `X.REG` (30_encoding.md R105). -/
inductive RegName where
  | uart (r : UartReg)
  | spi (r : SpiReg)
deriving DecidableEq, Repr

/-- The named fields of the registers, by the tables of 10_state.md. DEDUCED (log 25): SR's flags 13:8 have their names in the
order R45 lists them from bit 8 up. -/
inductive Field where
  /-- BAUD (R23). -/
  | osr | sbr
  /-- STAT (R24). -/
  | tdre | rdrf
  /-- CTRL of the LPUART (R25). -/
  | tie | rie | te | re
  /-- CR (R44). -/
  | rstf | rst | men
  /-- SR (R45). -/
  | mbf | dmf | ref | tef | tcf | fcf | wcf | rdf | tdf
  /-- IER (R46). -/
  | rdie | tdie
  /-- CFGR1 (R49). -/
  | master
  /-- FSR (R52). -/
  | rxcount | txcount
  /-- TCR (R53). -/
  | pcs
  /-- RSR (R55). -/
  | rxempty
deriving DecidableEq, Repr

namespace Machine

/-- The register a named field stands in (10_state.md). -/
def fieldReg : Field → RegName
  | .osr | .sbr => .uart .baud
  | .tdre | .rdrf => .uart .stat
  | .tie | .rie | .te | .re => .uart .ctrl
  | .rstf | .rst | .men => .spi .cr
  | .mbf | .dmf | .ref | .tef | .tcf | .fcf | .wcf | .rdf | .tdf => .spi .sr
  | .rdie | .tdie => .spi .ier
  | .master => .spi .cfgr1
  | .rxcount | .txcount => .spi .fsr
  | .pcs => .spi .tcr
  | .rxempty => .spi .rsr

/-- The lowest bit of a named field (10_state.md). -/
def fieldLow : Field → Nat
  | .osr => 24
  | .sbr => 0
  | .tdre => 23
  | .rdrf => 21
  | .tie => 23
  | .rie => 21
  | .te => 19
  | .re => 18
  | .rstf => 9
  | .rst => 1
  | .men => 0
  | .mbf => 24
  | .dmf => 13
  | .ref => 12
  | .tef => 11
  | .tcf => 10
  | .fcf => 9
  | .wcf => 8
  | .rdf => 1
  | .tdf => 0
  | .rdie => 1
  | .tdie => 0
  | .master => 0
  | .rxcount => 16
  | .txcount => 0
  | .pcs => 24
  | .rxempty => 1

/-- The width of a named field in bits (10_state.md). -/
def fieldWidth : Field → Nat
  | .osr => 5
  | .sbr => 13
  | .rxcount | .txcount => 5
  | .pcs => 2
  | .tdre | .rdrf | .tie | .rie | .te | .re | .rstf | .rst | .men | .mbf | .dmf | .ref | .tef | .tcf | .fcf | .wcf | .rdf
  | .tdf | .rdie | .tdie | .master | .rxempty => 1

/-- The byte offset of each LPUART register (10_state.md R23 to R26). -/
def uartOffset : UartReg → Nat
  | .baud => 0x10
  | .stat => 0x14
  | .ctrl => 0x18
  | .data => 0x1C

/-- The byte offset of each LPSPI register (10_state.md R41). -/
def spiOffset : SpiReg → Nat
  | .verid => 0x00
  | .param => 0x04
  | .cr    => 0x10
  | .sr    => 0x14
  | .ier   => 0x18
  | .der   => 0x1C
  | .cfgr0 => 0x20
  | .cfgr1 => 0x24
  | .ccr   => 0x40
  | .fcr   => 0x58
  | .fsr   => 0x5C
  | .tcr   => 0x60
  | .tdr   => 0x64
  | .rsr   => 0x70
  | .rdr   => 0x74

/-- map(UART), 41_lpuart.md R130. -/
def uartMap : List UartReg := [.baud, .stat, .ctrl, .data]

/-- map(SPI), 42_lpspi_registers.md R161. -/
def spiMap : List SpiReg :=
  [.verid, .param, .cr, .sr, .ier, .der, .cfgr0, .cfgr1, .ccr, .fcr, .fsr, .tcr, .tdr, .rsr, .rdr]

/-- The LPUART register at an offset, if the offset is in map(UART) (10_state.md R27). -/
def uartRegAt (off : Nat) : Option UartReg := uartMap.find? fun r => uartOffset r == off

/-- The LPSPI register at an offset, if the offset is in map(SPI) (10_state.md R57). -/
def spiRegAt (off : Nat) : Option SpiReg := spiMap.find? fun r => spiOffset r == off

/-- Whether an offset is in a block's map. -/
def isMapped (b : Block) (off : Nat) : Bool :=
  match b with
  | .uart => (uartRegAt off).isSome
  | .spi  => (spiRegAt off).isSome

/-- The W1C mask of LPUART STAT: every bit but TDRE (23) and RDRF (21) (40_regbank_irq.md R112). -/
def statW1cMask : Word := 0xFF5FFFFF

/-- The W1C mask of LPSPI SR: the whole word (40_regbank_irq.md R112). -/
def srW1cMask : Word := 0xFFFFFFFF

/-- The access class of each LPUART register (40_regbank_irq.md R112). -/
def uartClass : UartReg → AccessClass
  | .baud => .rw
  | .stat => .w1c statW1cMask
  | .ctrl => .rw
  | .data => .handlers

/-- The access class of each LPSPI register (40_regbank_irq.md R112). -/
def spiClass : SpiReg → AccessClass
  | .verid => .ro
  | .param => .ro
  | .cr    => .rw
  | .sr    => .w1c srW1cMask
  | .ier   => .rw
  | .der   => .rw
  | .cfgr0 => .rw
  | .cfgr1 => .rw
  | .ccr   => .rw
  | .fcr   => .rw
  | .fsr   => .ro
  | .tcr   => .rw
  | .tdr   => .wo
  | .rsr   => .ro
  | .rdr   => .ro

end Machine
end Sys2Proof
end

