-- ==== Sys2Proof/WellFormed.lean ====
section
/-! DEFINITION. The side conditions an instruction's fields meet when it comes from a descriptor: each is what its row of
spec/opcode_table.json adds to its format, and what sends a descriptor to that row and no other (30_encoding.md R92, R107). -/

namespace Sys2Proof

/-- An offset that is a multiple of 4 (20_memory.md R74). -/
def alignedOffset (o : Offset) : Bool := decide (o.toNat % 4 = 0)

/-- An event of rule R91: S = 0 and event 0 of either block, or event 1 of the LPUART. -/
def isEventNumber (b : Block) (s : BitVec 2) (o : Offset) : Bool :=
  decide (s = 0) && (decide (o = 0) || (decide (o = 1) && decide (b = .uart)))

/-- The fields of an instruction are ones that a descriptor of its row can hold. -/
def Instr.wellFormed : Instr → Bool
  | .rdUartBaud | .rdUartStat | .rdUartCtrl | .rdUartData => true
  | .wrUartBaud _ | .wrUartStat _ | .wrUartCtrl _ | .wrUartData _ => true
  | .rdSpiVerid | .rdSpiParam | .rdSpiCr | .rdSpiSr | .rdSpiIer | .rdSpiDer | .rdSpiCfgr0 | .rdSpiCfgr1
  | .rdSpiCcr | .rdSpiFcr | .rdSpiFsr | .rdSpiTcr | .rdSpiTdr | .rdSpiRsr | .rdSpiRdr => true
  | .wrSpiVerid _ | .wrSpiParam _ | .wrSpiCr _ | .wrSpiSr _ | .wrSpiIer _ | .wrSpiDer _ | .wrSpiCfgr0 _
  | .wrSpiCfgr1 _ | .wrSpiCcr _ | .wrSpiFcr _ | .wrSpiFsr _ | .wrSpiTcr _ | .wrSpiTdr _ | .wrSpiRsr _
  | .wrSpiRdr _ => true
  | .rstUart | .evUartRxbyte _ | .rstSpi => true
  | .reservedK3 _ _ _ _ | .reservedZ0 _ _ _ _ _ | .reservedZ1 _ _ _ _ _ | .reservedZ2 _ _ _ _ => true
  | .reservedS3 _ _ _ | .subword _ _ _ _ => true
  | .misalignedB0 _ _ o => decide (o.toNat % 2 = 1)
  | .misalignedB1 _ _ o => decide (o.toNat % 4 = 2)
  | .rdUartUnmapped o | .wrUartUnmapped o _ => alignedOffset o && !Machine.isMapped .uart o.toNat
  | .rdSpiUnmapped o | .wrSpiUnmapped o _ => alignedOffset o && !Machine.isMapped .spi o.toNat
  | .evReserved b s o => !isEventNumber b s o

end Sys2Proof
end

