-- ==== Sys2Proof/Decode.lean ====
section
/-! DEFINITION. Decoding a host call (30_encoding.md R90 to R93, R96, R107) and, after it, encoding an instruction back into a
call. The decoder is total: every descriptor decodes to the instruction of one row of spec/opcode_table.json, a
refusal row among them, and a record that is no call is rejected by name. -/

namespace Sys2Proof

/-- Bits 7:0 of a word, the byte of an operand (30_encoding.md R90, R96). -/
def lowByte (w : Word) : Byte := w.extractLsb' 0 8

/-- The block of field B: 0 is the LPUART, 1 the LPSPI (30_encoding.md R90). -/
def blockOfBit (b : Bool) : Block := if b then .spi else .uart

/-- Field B of a block. -/
def bitOfBlock : Block → BitVec 1
  | .uart => 0
  | .spi  => 1

/-- The fields of a descriptor (30_encoding.md R90). -/
def fieldsOf (w : Word) : Fields where
  b := blockOfBit (w.getLsbD 31)
  k := w.extractLsb' 29 2
  s := w.extractLsb' 27 2
  z := w.extractLsb' 24 3
  o := w.extractLsb' 0 24

/-- The descriptor with the given fields (30_encoding.md R90). -/
def descriptorOf (f : Fields) : Word := bitOfBlock f.b ++ f.k ++ f.s ++ f.z ++ f.o

/-- The kind of K = 0, 1, 2 (30_encoding.md R90). -/
def kindOf (k : BitVec 2) : Kind :=
  if k = 0 then .read else if k = 1 then .write else .event

/-- Field K of a kind. -/
def bitsOfKind : Kind → BitVec 2
  | .read  => 0
  | .write => 1
  | .event => 2

/-- The LPUART read of a register (30_encoding.md R99). -/
def readUartReg : UartReg → Instr
  | .baud => .rdUartBaud
  | .stat => .rdUartStat
  | .ctrl => .rdUartCtrl
  | .data => .rdUartData

/-- The LPUART write of a register (30_encoding.md R99). -/
def writeUartReg (v : Word) : UartReg → Instr
  | .baud => .wrUartBaud v
  | .stat => .wrUartStat v
  | .ctrl => .wrUartCtrl v
  | .data => .wrUartData v

/-- The LPSPI read of a register (30_encoding.md R100). -/
def readSpiReg : SpiReg → Instr
  | .verid => .rdSpiVerid
  | .param => .rdSpiParam
  | .cr    => .rdSpiCr
  | .sr    => .rdSpiSr
  | .ier   => .rdSpiIer
  | .der   => .rdSpiDer
  | .cfgr0 => .rdSpiCfgr0
  | .cfgr1 => .rdSpiCfgr1
  | .ccr   => .rdSpiCcr
  | .fcr   => .rdSpiFcr
  | .fsr   => .rdSpiFsr
  | .tcr   => .rdSpiTcr
  | .tdr   => .rdSpiTdr
  | .rsr   => .rdSpiRsr
  | .rdr   => .rdSpiRdr

/-- The LPSPI write of a register (30_encoding.md R100). -/
def writeSpiReg (v : Word) : SpiReg → Instr
  | .verid => .wrSpiVerid v
  | .param => .wrSpiParam v
  | .cr    => .wrSpiCr v
  | .sr    => .wrSpiSr v
  | .ier   => .wrSpiIer v
  | .der   => .wrSpiDer v
  | .cfgr0 => .wrSpiCfgr0 v
  | .cfgr1 => .wrSpiCfgr1 v
  | .ccr   => .wrSpiCcr v
  | .fcr   => .wrSpiFcr v
  | .fsr   => .wrSpiFsr v
  | .tcr   => .wrSpiTcr v
  | .tdr   => .wrSpiTdr v
  | .rsr   => .wrSpiRsr v
  | .rdr   => .wrSpiRdr v

/-- A 4-byte aligned access: the register at its offset, or the block's unmapped row (30_encoding.md R92 steps 5 to 7). -/
def decodeAligned (d : Dir) (b : Block) (o : Offset) (v : Word) : Instr :=
  match b, d with
  | .uart, .read =>
    match Machine.uartRegAt o.toNat with
    | some r => readUartReg r
    | none   => .rdUartUnmapped o
  | .uart, .write =>
    match Machine.uartRegAt o.toNat with
    | some r => writeUartReg v r
    | none   => .wrUartUnmapped o v
  | .spi, .read =>
    match Machine.spiRegAt o.toNat with
    | some r => readSpiReg r
    | none   => .rdSpiUnmapped o
  | .spi, .write =>
    match Machine.spiRegAt o.toNat with
    | some r => writeSpiReg v r
    | none   => .wrSpiUnmapped o v

/-- A register access, K = 0 or 1 with Z = 0 (30_encoding.md R92 steps 3 to 7). -/
def decodeAccess (d : Dir) (f : Fields) (v : Word) : Instr :=
  if f.s = 3 then .reservedS3 f.b d f.o
  else if f.s = 0 then .subword f.b d .byte f.o
  else if f.s = 1 then .subword f.b d .half f.o
  else if f.o.toNat % 2 = 1 then .misalignedB0 f.b d f.o
  else if f.o.toNat % 4 = 2 then .misalignedB1 f.b d f.o
  else decodeAligned d f.b f.o v

/-- An event, K = 2 with Z = 0 (30_encoding.md R91; R92 steps 1 and 2). -/
def decodeEvent (f : Fields) (v : Word) : Instr :=
  if isEventNumber f.b f.s f.o then
    if f.o = 0 then
      match f.b with
      | .uart => .rstUart
      | .spi  => .rstSpi
    else .evUartRxbyte (lowByte v)
  else .evReserved f.b f.s f.o

/-- The decoder, on the fields of the descriptor and the operand (30_encoding.md R92). A descriptor that meets several of the
reserved rows takes the first in the table's order: the outcome is the same (log 3). -/
def decodeFields (f : Fields) (v : Word) : Instr :=
  if f.k = 3 then .reservedK3 f.b f.s f.z f.o
  else if f.z.getLsbD 0 then .reservedZ0 f.b (kindOf f.k) f.s (f.z.extractLsb' 1 2) f.o
  else if f.z.getLsbD 1 then .reservedZ1 f.b (kindOf f.k) f.s (f.z.extractLsb' 2 1) f.o
  else if f.z.getLsbD 2 then .reservedZ2 f.b (kindOf f.k) f.s f.o
  else
    match kindOf f.k with
    | .read  => decodeAccess .read f v
    | .write => decodeAccess .write f v
    | .event => decodeEvent f v

/-- The instruction a host call spells (30_encoding.md R92). -/
def decode (c : Call) : Instr := decodeFields (fieldsOf c.descriptor) c.operand

/-- The word whose bytes are b0 (bits 7:0) to b3 (bits 31:24). -/
def wordOfBytes (b0 b1 b2 b3 : Byte) : Word := b3 ++ b2 ++ b1 ++ b0

/-- Byte i of a word, bits 8i+7 : 8i. -/
def byteOfWord (w : Word) (i : Nat) : Byte := w.extractLsb' (8 * i) 8

/-- The four bytes of a word, least significant first. -/
def bytesOfWord (w : Word) : List Byte := [byteOfWord w 0, byteOfWord w 1, byteOfWord w 2, byteOfWord w 3]

/-- A call record as bytes: the descriptor, then the operand, each least significant byte first (log 2). -/
def callOfBytes : List Byte → Except DecodeReject Call
  | [d0, d1, d2, d3, v0, v1, v2, v3] => .ok ⟨wordOfBytes d0 d1 d2 d3, wordOfBytes v0 v1 v2 v3⟩
  | bs => .error (.wrongLength bs.length)

/-- The bytes of a call record (log 2). -/
def bytesOfCall (c : Call) : List Byte := bytesOfWord c.descriptor ++ bytesOfWord c.operand

/-- The decoder on bytes: a record of any other length than eight is rejected by name. -/
def decodeBytes (bs : List Byte) : Except DecodeReject Instr :=
  match callOfBytes bs with
  | .ok c    => .ok (decode c)
  | .error r => .error r

/-- The call whose bits are w, numbered as spec/opcode_table.json numbers them: bits 31:0 the descriptor, bits 63:32 the
operand, and every bit from nbits up 0. -/
def callOfTableWord (nbits w : Nat) : Call :=
  let n := w % 2 ^ nbits
  ⟨BitVec.ofNat 32 n, BitVec.ofNat 32 (n / 2 ^ 32)⟩

/-- The instruction the decoder reads from a table word, laid out as a call record. -/
def decodeTableWord (nbits w : Nat) : Option Instr :=
  match decodeBytes (bytesOfCall (callOfTableWord nbits w)) with
  | .ok i    => some i
  | .error _ => none

/-- The byte-in event's operand word: the byte in bits 7:0 (log 2). -/
def operandOfByte (b : Byte) : Word := b.setWidth 32

/-- Field K of a direction. -/
def bitsOfDir : Dir → BitVec 2
  | .read  => 0
  | .write => 1

/-- Field S of a sub-word size (30_encoding.md R90). -/
def bitsOfSubSize : SubSize → BitVec 2
  | .byte => 0
  | .half => 1

/-- The descriptor fields of an instruction, from the encodings of 30_encoding.md R90, R91 and R93. -/
def encodeFields : Instr → Fields
  | .rdUartBaud => ⟨.uart, 0, 2, 0, 0x10⟩
  | .rdUartStat => ⟨.uart, 0, 2, 0, 0x14⟩
  | .rdUartCtrl => ⟨.uart, 0, 2, 0, 0x18⟩
  | .rdUartData => ⟨.uart, 0, 2, 0, 0x1C⟩
  | .wrUartBaud _ => ⟨.uart, 1, 2, 0, 0x10⟩
  | .wrUartStat _ => ⟨.uart, 1, 2, 0, 0x14⟩
  | .wrUartCtrl _ => ⟨.uart, 1, 2, 0, 0x18⟩
  | .wrUartData _ => ⟨.uart, 1, 2, 0, 0x1C⟩
  | .rdSpiVerid => ⟨.spi, 0, 2, 0, 0x00⟩
  | .rdSpiParam => ⟨.spi, 0, 2, 0, 0x04⟩
  | .rdSpiCr => ⟨.spi, 0, 2, 0, 0x10⟩
  | .rdSpiSr => ⟨.spi, 0, 2, 0, 0x14⟩
  | .rdSpiIer => ⟨.spi, 0, 2, 0, 0x18⟩
  | .rdSpiDer => ⟨.spi, 0, 2, 0, 0x1C⟩
  | .rdSpiCfgr0 => ⟨.spi, 0, 2, 0, 0x20⟩
  | .rdSpiCfgr1 => ⟨.spi, 0, 2, 0, 0x24⟩
  | .rdSpiCcr => ⟨.spi, 0, 2, 0, 0x40⟩
  | .rdSpiFcr => ⟨.spi, 0, 2, 0, 0x58⟩
  | .rdSpiFsr => ⟨.spi, 0, 2, 0, 0x5C⟩
  | .rdSpiTcr => ⟨.spi, 0, 2, 0, 0x60⟩
  | .rdSpiTdr => ⟨.spi, 0, 2, 0, 0x64⟩
  | .rdSpiRsr => ⟨.spi, 0, 2, 0, 0x70⟩
  | .rdSpiRdr => ⟨.spi, 0, 2, 0, 0x74⟩
  | .wrSpiVerid _ => ⟨.spi, 1, 2, 0, 0x00⟩
  | .wrSpiParam _ => ⟨.spi, 1, 2, 0, 0x04⟩
  | .wrSpiCr _ => ⟨.spi, 1, 2, 0, 0x10⟩
  | .wrSpiSr _ => ⟨.spi, 1, 2, 0, 0x14⟩
  | .wrSpiIer _ => ⟨.spi, 1, 2, 0, 0x18⟩
  | .wrSpiDer _ => ⟨.spi, 1, 2, 0, 0x1C⟩
  | .wrSpiCfgr0 _ => ⟨.spi, 1, 2, 0, 0x20⟩
  | .wrSpiCfgr1 _ => ⟨.spi, 1, 2, 0, 0x24⟩
  | .wrSpiCcr _ => ⟨.spi, 1, 2, 0, 0x40⟩
  | .wrSpiFcr _ => ⟨.spi, 1, 2, 0, 0x58⟩
  | .wrSpiFsr _ => ⟨.spi, 1, 2, 0, 0x5C⟩
  | .wrSpiTcr _ => ⟨.spi, 1, 2, 0, 0x60⟩
  | .wrSpiTdr _ => ⟨.spi, 1, 2, 0, 0x64⟩
  | .wrSpiRsr _ => ⟨.spi, 1, 2, 0, 0x70⟩
  | .wrSpiRdr _ => ⟨.spi, 1, 2, 0, 0x74⟩
  | .rstUart => ⟨.uart, 2, 0, 0, 0x00⟩
  | .evUartRxbyte _ => ⟨.uart, 2, 0, 0, 0x01⟩
  | .rstSpi => ⟨.spi, 2, 0, 0, 0x00⟩
  | .reservedK3 b s z o => ⟨b, 3, s, z, o⟩
  | .reservedZ0 b k s z21 o => ⟨b, bitsOfKind k, s, z21 ++ 1#1, o⟩
  | .reservedZ1 b k s z2 o => ⟨b, bitsOfKind k, s, z2 ++ 2#2, o⟩
  | .reservedZ2 b k s o => ⟨b, bitsOfKind k, s, 4, o⟩
  | .reservedS3 b d o => ⟨b, bitsOfDir d, 3, 0, o⟩
  | .subword b d n o => ⟨b, bitsOfDir d, bitsOfSubSize n, 0, o⟩
  | .misalignedB0 b d o => ⟨b, bitsOfDir d, 2, 0, o⟩
  | .misalignedB1 b d o => ⟨b, bitsOfDir d, 2, 0, o⟩
  | .rdUartUnmapped o => ⟨.uart, 0, 2, 0, o⟩
  | .wrUartUnmapped o _ => ⟨.uart, 1, 2, 0, o⟩
  | .rdSpiUnmapped o => ⟨.spi, 0, 2, 0, o⟩
  | .wrSpiUnmapped o _ => ⟨.spi, 1, 2, 0, o⟩
  | .evReserved b s o => ⟨b, 2, s, 0, o⟩

/-- The operand word of an instruction: V of a write, the byte of a byte-in event, 0 of a call that carries none. -/
def encodeOperand : Instr → Word
  | .wrUartBaud v => v
  | .wrUartStat v => v
  | .wrUartCtrl v => v
  | .wrUartData v => v
  | .wrSpiVerid v => v
  | .wrSpiParam v => v
  | .wrSpiCr v => v
  | .wrSpiSr v => v
  | .wrSpiIer v => v
  | .wrSpiDer v => v
  | .wrSpiCfgr0 v => v
  | .wrSpiCfgr1 v => v
  | .wrSpiCcr v => v
  | .wrSpiFcr v => v
  | .wrSpiFsr v => v
  | .wrSpiTcr v => v
  | .wrSpiTdr v => v
  | .wrSpiRsr v => v
  | .wrSpiRdr v => v
  | .wrUartUnmapped _ v => v
  | .wrSpiUnmapped _ v => v
  | .evUartRxbyte b => operandOfByte b
  | .rdUartBaud | .rdUartStat | .rdUartCtrl | .rdUartData | .rdSpiVerid | .rdSpiParam | .rdSpiCr | .rdSpiSr
  | .rdSpiIer | .rdSpiDer | .rdSpiCfgr0 | .rdSpiCfgr1 | .rdSpiCcr | .rdSpiFcr | .rdSpiFsr | .rdSpiTcr
  | .rdSpiTdr | .rdSpiRsr | .rdSpiRdr | .rstUart | .rstSpi | .reservedK3 _ _ _ _ | .reservedZ0 _ _ _ _ _
  | .reservedZ1 _ _ _ _ _ | .reservedZ2 _ _ _ _ | .reservedS3 _ _ _ | .subword _ _ _ _ | .misalignedB0 _ _ _
  | .misalignedB1 _ _ _ | .rdUartUnmapped _ | .rdSpiUnmapped _ | .evReserved _ _ _ => 0

/-- The call that spells an instruction. -/
def encode (i : Instr) : Call := ⟨descriptorOf (encodeFields i), encodeOperand i⟩

/-- The "match" of an instruction's row of spec/opcode_table.json. -/
def rowMatch : Instr → Word
  | .rdUartBaud => 0x10000010
  | .rdUartStat => 0x10000014
  | .rdUartCtrl => 0x10000018
  | .rdUartData => 0x1000001C
  | .wrUartBaud _ => 0x30000010
  | .wrUartStat _ => 0x30000014
  | .wrUartCtrl _ => 0x30000018
  | .wrUartData _ => 0x3000001C
  | .rdSpiVerid => 0x90000000
  | .rdSpiParam => 0x90000004
  | .rdSpiCr => 0x90000010
  | .rdSpiSr => 0x90000014
  | .rdSpiIer => 0x90000018
  | .rdSpiDer => 0x9000001C
  | .rdSpiCfgr0 => 0x90000020
  | .rdSpiCfgr1 => 0x90000024
  | .rdSpiCcr => 0x90000040
  | .rdSpiFcr => 0x90000058
  | .rdSpiFsr => 0x9000005C
  | .rdSpiTcr => 0x90000060
  | .rdSpiTdr => 0x90000064
  | .rdSpiRsr => 0x90000070
  | .rdSpiRdr => 0x90000074
  | .wrSpiVerid _ => 0xB0000000
  | .wrSpiParam _ => 0xB0000004
  | .wrSpiCr _ => 0xB0000010
  | .wrSpiSr _ => 0xB0000014
  | .wrSpiIer _ => 0xB0000018
  | .wrSpiDer _ => 0xB000001C
  | .wrSpiCfgr0 _ => 0xB0000020
  | .wrSpiCfgr1 _ => 0xB0000024
  | .wrSpiCcr _ => 0xB0000040
  | .wrSpiFcr _ => 0xB0000058
  | .wrSpiFsr _ => 0xB000005C
  | .wrSpiTcr _ => 0xB0000060
  | .wrSpiTdr _ => 0xB0000064
  | .wrSpiRsr _ => 0xB0000070
  | .wrSpiRdr _ => 0xB0000074
  | .rstUart => 0x40000000
  | .evUartRxbyte _ => 0x40000001
  | .rstSpi => 0xC0000000
  | .reservedK3 _ _ _ _ => 0x60000000
  | .reservedZ0 _ _ _ _ _ => 0x01000000
  | .reservedZ1 _ _ _ _ _ => 0x02000000
  | .reservedZ2 _ _ _ _ => 0x04000000
  | .reservedS3 _ _ _ => 0x18000000
  | .subword _ _ _ _ => 0x00000000
  | .misalignedB0 _ _ _ => 0x10000001
  | .misalignedB1 _ _ _ => 0x10000002
  | .rdUartUnmapped _ => 0x10000000
  | .wrUartUnmapped _ _ => 0x30000000
  | .rdSpiUnmapped _ => 0x90000000
  | .wrSpiUnmapped _ _ => 0xB0000000
  | .evReserved _ _ _ => 0x40000000

/-- The "mask" of an instruction's row of spec/opcode_table.json. -/
def rowMask : Instr → Word
  | .rdUartBaud | .rdUartStat | .rdUartCtrl | .rdUartData | .wrUartBaud _ | .wrUartStat _ | .wrUartCtrl _
  | .wrUartData _ | .rdSpiVerid | .rdSpiParam | .rdSpiCr | .rdSpiSr | .rdSpiIer | .rdSpiDer | .rdSpiCfgr0
  | .rdSpiCfgr1 | .rdSpiCcr | .rdSpiFcr | .rdSpiFsr | .rdSpiTcr | .rdSpiTdr | .rdSpiRsr | .rdSpiRdr
  | .wrSpiVerid _ | .wrSpiParam _ | .wrSpiCr _ | .wrSpiSr _ | .wrSpiIer _ | .wrSpiDer _ | .wrSpiCfgr0 _
  | .wrSpiCfgr1 _ | .wrSpiCcr _ | .wrSpiFcr _ | .wrSpiFsr _ | .wrSpiTcr _ | .wrSpiTdr _ | .wrSpiRsr _
  | .wrSpiRdr _ | .rstUart | .evUartRxbyte _ | .rstSpi => 0xFFFFFFFF
  | .reservedK3 _ _ _ _ => 0x60000000
  | .reservedZ0 _ _ _ _ _ => 0x01000000
  | .reservedZ1 _ _ _ _ _ => 0x02000000
  | .reservedZ2 _ _ _ _ => 0x04000000
  | .reservedS3 _ _ _ => 0x58000000
  | .subword _ _ _ _ => 0x57000000
  | .misalignedB0 _ _ _ => 0x5F000001
  | .misalignedB1 _ _ _ => 0x5F000003
  | .rdUartUnmapped _ => 0xFF000003
  | .wrUartUnmapped _ _ => 0xFF000003
  | .rdSpiUnmapped _ => 0xFF000003
  | .wrSpiUnmapped _ _ => 0xFF000003
  | .evReserved _ _ _ => 0x60000000

end Sys2Proof
end

