-- ==== Sys2Proof/Machine/Event.lean ====
section
/-! DEFINITION. The output events of a block (00_scope.md R12) and the diagnostic kinds (60_exceptions.md R230). -/

namespace Sys2Proof

/-- The diagnostic kinds (60_exceptions.md R230). -/
inductive DiagKind where
  | unimplementedOffsetRead
  | unimplementedOffsetWrite
  | outOfRangeOffsetRead
  | outOfRangeOffsetWrite
  | readOnlyWrite
  | moduleDisabled
  | txFifoFull
  | badChipSelect
deriving DecidableEq, Repr

/-- The output events (00_scope.md R12). A level is a Bool: true is 1 (high, deasserted), false is 0 (low, asserted). -/
inductive Event where
  /-- `IrqEdge(X, level)`: the IRQ line of block X changed to level. -/
  | irqEdge (b : Block) (level : Bool)
  /-- `TxByte(b)`: LPUART byte out. -/
  | txByte (b : Byte)
  /-- `RxRoom`: the LPUART tells the channel that it may deliver another byte. -/
  | rxRoom
  /-- `SetParams(baud)`: the LPUART's advisory baud report. -/
  | setParams (baud : Nat)
  /-- `CsLevel(i, level)`: chip-select line i driven to level. -/
  | csLevel (line : Nat) (level : Bool)
  /-- `Exchange(i, wout, win)`: one peer word swap while line i is asserted. -/
  | exchange (line : Nat) (wout win : Word)
  /-- `Diag(kind, off)`: an out-of-band diagnostic. -/
  | diag (kind : DiagKind) (off : Nat)
deriving DecidableEq, Repr

namespace Machine

/-- The code of each diagnostic kind (60_exceptions.md R230). -/
def diagCode : DiagKind → Nat
  | .unimplementedOffsetRead  => 1
  | .unimplementedOffsetWrite => 2
  | .outOfRangeOffsetRead     => 3
  | .outOfRangeOffsetWrite    => 4
  | .readOnlyWrite            => 5
  | .moduleDisabled           => 6
  | .txFifoFull               => 7
  | .badChipSelect            => 8

end Machine
end Sys2Proof
end

