-- ==== Sys2Proof/Config.lean ====
section
/-! DEFINITION. The parameters of a model of the core (00_scope.md R8) as one record of plain data, the reference values
the spec names, and the values the spec leaves open, which have no body. -/

namespace Sys2Proof

/-- The implementation parameters of 00_scope.md R8. CLOCK_HZ is an input and stands in State; PEER is `Config.peer`. -/
structure Config where
  /-- `NUM_CS`: the number of chip-select lines (any natural, D32). -/
  numCs            : Nat
  /-- `TX_FIFO_WORDS` (1 to 31, D33). -/
  txFifoWords      : Nat
  /-- `RX_FIFO_WORDS` (1 to 31, D33). -/
  rxFifoWords      : Nat
  /-- `BAUD_RESET` (any u32, D7). -/
  baudReset        : Word
  /-- `VERID_VALUE` (any u32, D8): the value of LPSPI VERID at all times. -/
  veridValue       : Word
  /-- `PARAM_VALUE` (any u32, D8): the value of LPSPI PARAM at all times. -/
  paramValue       : Word
  /-- `LPUART_REGION_BYTES` (a multiple of 4, at least 0x20, D2). -/
  uartRegionBytes  : Nat
  /-- `LPSPI_REGION_BYTES` (a multiple of 4, at least 0x78, D2). -/
  spiRegionBytes   : Nat
  /-- `LPUART_BASE` (D2): read by no rule but the naming of an access by its address (R11). -/
  uartBase         : Nat
  /-- `LPSPI_BASE` (D2). -/
  spiBase          : Nat
  /-- `LPSPI_CLOCK_HZ` (D30): read by no rule. -/
  lpspiClockHz     : Nat
deriving DecidableEq, Repr

namespace Config

/-- The legal values of the parameters (00_scope.md R8). -/
def legal (c : Config) : Bool :=
  decide (1 ≤ c.txFifoWords) && decide (c.txFifoWords ≤ 31)
    && decide (1 ≤ c.rxFifoWords) && decide (c.rxFifoWords ≤ 31)
    && decide (c.uartRegionBytes % 4 = 0) && decide (0x20 ≤ c.uartRegionBytes)
    && decide (c.spiRegionBytes % 4 = 0) && decide (0x78 ≤ c.spiRegionBytes)

/-- `TX_CAP = 4 * TX_FIFO_WORDS`, in bytes (00_scope.md R8). -/
def txCap (c : Config) : Nat := 4 * c.txFifoWords

/-- `RX_CAP = 4 * RX_FIFO_WORDS`, in bytes (00_scope.md R8). -/
def rxCap (c : Config) : Nat := 4 * c.rxFifoWords

/-- The region size of a block (20_memory.md R71). -/
def regionBytes (c : Config) : Block → Nat
  | .uart => c.uartRegionBytes
  | .spi  => c.spiRegionBytes

/-- The base address of a block's region (20_memory.md R71). -/
def base (c : Config) : Block → Nat
  | .uart => c.uartBase
  | .spi  => c.spiBase

/-- VERID_VALUE of the reset machine: OPEN (D8), so it has no body (log 6). -/
opaque openVeridValue : Word

/-- PARAM_VALUE of the reset machine: OPEN (D8), so it has no body (log 6). -/
opaque openParamValue : Word

/-- LPUART_BASE of the reset machine: OPEN (D2), so it has no body (log 7). -/
opaque openUartBase : Nat

/-- LPSPI_BASE of the reset machine: OPEN (D2), so it has no body (log 7). -/
opaque openSpiBase : Nat

/-- LPSPI_CLOCK_HZ of the reset machine: OPEN (D30), so it has no body (log 7). -/
opaque openLpspiClockHz : Nat

/-- PEER, the SPI peer (43_lpspi_transfer.md R214, D20): its answer to a word, given everything the block has put out
before (the earlier words, answers and chip-select levels), the selected line and the word sent. It has no body: nothing
constrains an answer (log 8). -/
opaque peer : List Event → Nat → Word → Word

/-- What a WRF puts into a field of a given width for a value that the field cannot hold: the spec does not say, so it has no body
(30_encoding.md R106; log 25). -/
opaque openFieldValue : Nat → Nat → Nat

/-- The parameters of the machine right after reset: the reference values of 00_scope.md R8 where it gives them (logs 4, 5),
the region sizes 95_test_vectors.md assumes (log 7), and the open values above. -/
def reference : Config where
  numCs           := 4
  txFifoWords     := 4
  rxFifoWords     := 4
  baudReset       := 0x0F000004
  veridValue      := openVeridValue
  paramValue      := openParamValue
  uartRegionBytes := 0x40
  spiRegionBytes  := 0x80
  uartBase        := openUartBase
  spiBase         := openSpiBase
  lpspiClockHz    := openLpspiClockHz

/-- The reference CLOCK_HZ, in Hz (00_scope.md R8). -/
def referenceClockHz : Nat := 144000000

end Config
end Sys2Proof
end

