-- ==== Sys2Proof/Machine/State.lean ====
section
/-! DEFINITION. The state of the machine as plain data: the two blocks (10_state.md R22, R40), their parameters (00_scope.md
R8), and the host's side of the interface (70_reset_and_hazards.md R276); the reasons a step can stop; the reset state. -/

namespace Sys2Proof.Machine

/-- What the host does next, one item at a time (70_reset_and_hazards.md R276): make a call, or set the clock input. -/
inductive HostAction where
  | call (c : Call)
  | setClock (hz : Nat)
deriving DecidableEq, Repr

/-- The state of an LPUART block (10_state.md R22). -/
structure Uart where
  baud   : Word
  stat   : Word
  ctrl   : Word
  /-- The receive holding cell; STAT.RDRF says whether it holds an unread byte (R28). -/
  rxCell : Byte
  /-- `uart_irq`, the latched level of the IRQ line (40_regbank_irq.md R122). -/
  irq    : Bool
  /-- The output trace, oldest event first (00_scope.md R12; log 10). -/
  trace  : List Event
deriving DecidableEq, Repr

/-- The state of an LPSPI block (10_state.md R40). VERID and PARAM are constants of Config; the busy flag MBF is SR[24]. -/
structure Spi where
  cr    : Word
  sr    : Word
  ier   : Word
  der   : Word
  cfgr0 : Word
  cfgr1 : Word
  ccr   : Word
  fcr   : Word
  fsr   : Word
  tcr   : Word
  rsr   : Word
  /-- The RDR mirror, the last word an RDR read popped (R56). -/
  rdr   : Word
  /-- The transmit FIFO, oldest byte first (R58). -/
  tx    : List Byte
  /-- The receive FIFO, oldest byte first (R58). -/
  rx    : List Byte
  /-- The chip-select lines: true is 1, high, deasserted (R40, R59). -/
  cs    : List Bool
  /-- `spi_irq`, the latched level of the IRQ line (40_regbank_irq.md R122). -/
  irq   : Bool
  /-- The answers of the peer that the host has lined up, the next one first (43_lpspi_transfer.md R214; log 8). -/
  peerAnswers : List Word
  /-- The output trace, oldest event first (00_scope.md R12; log 10). -/
  trace : List Event
deriving DecidableEq, Repr

/-- The machine: one LPUART and one LPSPI block (log 11), their parameters, and the host's inputs and answers. -/
structure State where
  /-- The parameters (00_scope.md R8), fixed for a machine (log 4). -/
  config  : Config
  uart    : Uart
  spi     : Spi
  /-- `CLOCK_HZ`, the LPUART's clock input (00_scope.md R8, 70_reset_and_hazards.md R276). -/
  clockHz : Nat
  /-- What the host has yet to do, the next item first (log 1). -/
  pending : List HostAction
  /-- The u32 the last call returned, and none after a call that returns nothing (log 9). -/
  result  : Option Word
deriving DecidableEq, Repr

/-- The core never faults: "No condition in this core is fatal" (60_exceptions.md R232; 93_implementation_defined.md U14), so
no constructor is raised by anybody. -/
inductive Fault where
deriving DecidableEq, Repr

/-- Why the model gives a call no meaning (60_exceptions.md R236). Each is safe: a run that holds one says nothing. -/
inductive Refusal where
  /-- Raised by an arm of exec that has no meaning yet; safe. -/
  | notModelled (mnemonic : String)
  /-- Raised by the RESERVED rows and EV.RESERVED: the descriptor spells no operation (30_encoding.md R101); safe. -/
  | reservedDescriptor
  /-- Raised by the SUBWORD row and the dispatcher: the access size is not 4 (20_memory.md R73); safe. -/
  | subwordAccess
  /-- Raised by the MISALIGNED rows and the dispatcher: the offset is not a multiple of 4 (20_memory.md R74); safe. -/
  | misalignedAccess
deriving DecidableEq, Repr

/-- The outcome of one call or one step. -/
abbrev Answer := Host.Outcome State Fault Refusal

/-- The informal states of the LPSPI module (42_lpspi_registers.md R191). -/
inductive ModuleState where
  /-- MEN = 0 and tx empty: TDR writes are rejected and no burst runs. -/
  | disabled
  /-- MEN = 0 with words left in tx: the fourth state of R191. -/
  | disabledStalled
  /-- MEN = 1, tx empty, MBF = 0. -/
  | idle
  /-- MEN = 1, tx not empty, MBF = 1: a stalled burst. -/
  | busy
deriving DecidableEq, Repr

/-- An LPUART block right after creation (10_state.md R31; 70_reset_and_hazards.md R260). -/
def Uart.created (c : Config) : Uart where
  baud   := c.baudReset
  stat   := 0x00800000
  ctrl   := 0
  rxCell := 0
  irq    := false
  trace  := []

/-- An LPSPI block right after creation (10_state.md R41, R61; 70_reset_and_hazards.md R260). -/
def Spi.created (c : Config) : Spi where
  cr    := 0
  sr    := 0x00000001
  ier   := 0
  der   := 0
  cfgr0 := 0
  cfgr1 := 0
  ccr   := 0
  fcr   := 0
  fsr   := 0
  tcr   := 0
  rsr   := 0x00000002
  rdr   := 0
  tx    := []
  rx    := []
  cs    := List.replicate c.numCs true
  irq   := false
  peerAnswers := []
  trace := []

/-- The machine with given parameters right after creation and power-on reset (70_reset_and_hazards.md R260). -/
def State.created (c : Config) (clockHz : Nat) : State where
  config  := c
  uart    := Uart.created c
  spi     := Spi.created c
  clockHz := clockHz
  pending := []
  result  := none

/-- The machine right after reset, with the reference parameters (logs 1 and 4 to 10). -/
def State.reset : State := State.created Config.reference Config.referenceClockHz

end Sys2Proof.Machine
end

