-- ==== Sys2Proof/Machine/Operands.lean ====
section
/-! DEFINITION. Operand assembly (30_encoding.md R94 to R98): the fields of BAUD and TCR, the bytes of DATA, the words of the
FIFOs, and the baud-rate function (41_lpuart.md R133). -/

namespace Sys2Proof.Machine

/-- `BAUD.OSR`, bits 28:24, as a natural number (30_encoding.md R94). -/
def osrOf (baud : Word) : Nat := (baud.extractLsb' 24 5).toNat

/-- `BAUD.SBR`, bits 12:0, as a natural number (30_encoding.md R94). -/
def sbrOf (baud : Word) : Nat := (baud.extractLsb' 0 13).toNat

/-- `BaudRate(clk, osr, sbr)`: floor division, and 0 for a divisor of 0 (41_lpuart.md R133; 90_conflicts.md C6). -/
def baudRate (clk osr sbr : Nat) : Nat :=
  let d := (osr + 1) * sbr
  if d = 0 then 0 else clk / d

/-- `TCR.PCS`, bits 25:24, as a natural number (30_encoding.md R95). -/
def pcsOf (tcr : Word) : Nat := (tcr.extractLsb' 24 2).toNat

/-- The byte an LPUART DATA write sends, V[7:0] (30_encoding.md R96). -/
def dataByte (v : Word) : Byte := v.extractLsb' 0 8

/-- The value an LPUART DATA read returns: the cell masked to the 10-bit field (30_encoding.md R96, 41_lpuart.md R139). -/
def dataValue (cell : Byte) : Word := cell.setWidth 32 &&& 0x3FF

/-- The four bytes of a word in the order they enter a FIFO, least significant first (43_lpspi_transfer.md R201). -/
def fifoBytes (w : Word) : List Byte := bytesOfWord w

/-- The word of four FIFO bytes, the oldest (first) as bits 7:0 (43_lpspi_transfer.md R202). -/
def fifoWord (b0 b1 b2 b3 : Byte) : Word := wordOfBytes b0 b1 b2 b3

end Sys2Proof.Machine
end

