-- ==== Sys2Proof/Machine/Fifo.lean ====
section
/-! DEFINITION. The FIFO primitives (43_lpspi_transfer.md R200 to R203): a FIFO is a queue of bytes, oldest first. -/

namespace Sys2Proof.Machine

/-- `Used(q)`: the number of bytes held (43_lpspi_transfer.md R200). -/
def used (q : List Byte) : Nat := q.length

/-- `Free(q) = cap(q) - Used(q)` (43_lpspi_transfer.md R200). -/
def free (cap : Nat) (q : List Byte) : Nat := cap - used q

/-- `PushWord(q, w)`: four bytes at the tail, least significant first (43_lpspi_transfer.md R201). -/
def pushWord (q : List Byte) (w : Word) : List Byte := q ++ fifoBytes w

/-- `PopWord(q)`: the word of the four head bytes and the queue without them (43_lpspi_transfer.md R202), and none exactly
when the queue holds fewer than four bytes (R203: it is then never called). -/
def popWord : List Byte → Option (Word × List Byte)
  | b0 :: b1 :: b2 :: b3 :: rest => some (fifoWord b0 b1 b2 b3, rest)
  | _ => none

/-- The words a FIFO holds, oldest first, for statements about its contents. -/
def fifoOfWords (ws : List Word) : List Byte := ws.flatMap fifoBytes

end Sys2Proof.Machine
end

