-- ==== Sys2Proof/Machine/Flags.lean ====
section
/-! DEFINITION. Bits and flags: the bit operations of 00_scope.md R9 and R10, the named fields of the status and control
registers (10_state.md R24, R25, R44 to R46, R52, R55), the write-1-to-clear rule (40_regbank_irq.md R111), the derived status
bits (43_lpspi_transfer.md R205) and the IRQ levels (40_regbank_irq.md R121). -/

namespace Sys2Proof.Machine

/-- `bit(i)`: the word with only bit i set (00_scope.md R9). -/
def bit (i : Nat) : Word := 1#32 <<< i

/-- `REG[i] <- b`: one bit of a word written, the others as before (00_scope.md R10). -/
def setBit (w : Word) (i : Nat) (b : Bool) : Word := if b then w ||| bit i else w &&& ~~~bit i

/-- A write to a W1C(M) register: `REG & ~(V & M)` (40_regbank_irq.md R111). -/
def w1cWrite (mask v reg : Word) : Word := reg &&& ~~~(v &&& mask)

/-- `STAT.TDRE`, bit 23 (10_state.md R24). -/
def Uart.tdre (u : Uart) : Bool := u.stat.getLsbD 23
/-- `STAT.RDRF`, bit 21 (10_state.md R24). -/
def Uart.rdrf (u : Uart) : Bool := u.stat.getLsbD 21
/-- `CTRL.TIE`, bit 23 (10_state.md R25). -/
def Uart.tie (u : Uart) : Bool := u.ctrl.getLsbD 23
/-- `CTRL.RIE`, bit 21 (10_state.md R25). -/
def Uart.rie (u : Uart) : Bool := u.ctrl.getLsbD 21
/-- `CTRL.TE`, bit 19 (10_state.md R25). -/
def Uart.te (u : Uart) : Bool := u.ctrl.getLsbD 19
/-- `CTRL.RE`, bit 18 (10_state.md R25). -/
def Uart.re (u : Uart) : Bool := u.ctrl.getLsbD 18

/-- `STAT.TDRE <- b`. -/
def Uart.setTdre (b : Bool) (u : Uart) : Uart := { u with stat := setBit u.stat 23 b }
/-- `STAT.RDRF <- b`. -/
def Uart.setRdrf (b : Bool) (u : Uart) : Uart := { u with stat := setBit u.stat 21 b }

/-- `can_receive = CTRL.RE & ~STAT.RDRF`, the predicate the block offers the channel (41_lpuart.md R143). -/
def Uart.canReceive (u : Uart) : Bool := u.re && !u.rdrf

/-- `CR.MEN`, bit 0 (10_state.md R44). -/
def Spi.men (p : Spi) : Bool := p.cr.getLsbD 0
/-- `CR.RST` of a value written to CR, bit 1 (10_state.md R44). -/
def rstBit (v : Word) : Bool := v.getLsbD 1
/-- `CR.RSTF` of a value written to CR, bit 9 (10_state.md R44). -/
def rstfBit (v : Word) : Bool := v.getLsbD 9
/-- `SR.TDF`, bit 0 (10_state.md R45). -/
def Spi.tdf (p : Spi) : Bool := p.sr.getLsbD 0
/-- `SR.RDF`, bit 1 (10_state.md R45). -/
def Spi.rdf (p : Spi) : Bool := p.sr.getLsbD 1
/-- `SR.MBF`, bit 24 (10_state.md R45). -/
def Spi.mbf (p : Spi) : Bool := p.sr.getLsbD 24

/-- `SR.MBF <- b`. -/
def Spi.setMbf (b : Bool) (p : Spi) : Spi := { p with sr := setBit p.sr 24 b }

/-- TDF as UpdateStatus computes it: `Free(tx) >= 4` (43_lpspi_transfer.md R205). -/
def tdfOf (c : Config) (tx : List Byte) : Bool := decide (4 ≤ free c.txCap tx)
/-- RDF as UpdateStatus computes it: `Used(rx) >= 4` (43_lpspi_transfer.md R205). -/
def rdfOf (rx : List Byte) : Bool := decide (4 ≤ used rx)
/-- MBF as UpdateStatus computes it: `Used(tx) != 0` (43_lpspi_transfer.md R205; 90_conflicts.md C3). -/
def mbfOf (tx : List Byte) : Bool := decide (used tx ≠ 0)

/-- SR with its three derived bits recomputed and every other bit as before (43_lpspi_transfer.md R205). -/
def srOf (c : Config) (tx rx : List Byte) (sr : Word) : Word :=
  setBit (setBit (setBit sr 0 (tdfOf c tx)) 1 (rdfOf rx)) 24 (mbfOf tx)

/-- `FSR`: RXCOUNT in bits 20:16, TXCOUNT in bits 4:0 (43_lpspi_transfer.md R205, D19). -/
def fsrOf (tx rx : List Byte) : Word := (BitVec.ofNat 32 (used rx / 4) <<< 16) ||| BitVec.ofNat 32 (used tx / 4)

/-- `RSR`: RXEMPTY is bit 1 (43_lpspi_transfer.md R205). -/
def rsrOf (rx : List Byte) : Word := if used rx = 0 then 0x00000002 else 0

/-- The module state (42_lpspi_registers.md R191). -/
def Spi.moduleState (p : Spi) : ModuleState :=
  if p.men then (if p.mbf then .busy else .idle)
  else if p.mbf then .disabledStalled else .disabled

/-- `UART_IRQ_MASK` (30_encoding.md R98). -/
def uartIrqMask : Word := 0x00A00000
/-- `SPI_IRQ_MASK` (30_encoding.md R98). -/
def spiIrqMask : Word := 0x00000003

/-- The IRQ level of status, enable and mask (40_regbank_irq.md R121). -/
def irqLevel (status enable mask : Word) : Bool := decide (status &&& enable &&& mask ≠ 0)

/-- `level(UART)` (40_regbank_irq.md R121). -/
def Uart.level (u : Uart) : Bool := irqLevel u.stat u.ctrl uartIrqMask

/-- `level(SPI)` (40_regbank_irq.md R121). -/
def Spi.level (p : Spi) : Bool := irqLevel p.sr p.ier spiIrqMask

end Sys2Proof.Machine
end

