-- ==== Sys2Proof/Machine/Ops.lean ====
section
/-! DEFINITION. The shared operations: events and diagnostics (00_scope.md R12, R13), the IRQ update (40_regbank_irq.md R122:
the core takes no exception, this is the whole of its part in an interrupt, 60_exceptions.md R241), the status update, the
exchange and the burst (43_lpspi_transfer.md R205, R210, R214), the resets (41_lpuart.md R131, 42_lpspi_registers.md R160), and
the dispatcher's steps around every access (40_regbank_irq.md R113, R116). -/

namespace Sys2Proof.Machine

/-- `emit E` on the LPUART's trace (00_scope.md R12). -/
def Uart.emit (e : Event) (u : Uart) : Uart := { u with trace := u.trace ++ [e] }

/-- `emit E` on the LPSPI's trace (00_scope.md R12). -/
def Spi.emit (e : Event) (p : Spi) : Spi := { p with trace := p.trace ++ [e] }

/-- `diag K(off)` of the LPUART (00_scope.md R13). -/
def Uart.diag (k : DiagKind) (off : Nat) (u : Uart) : Uart := u.emit (.diag k off)

/-- `diag K(off)` of the LPSPI (00_scope.md R13). -/
def Spi.diag (k : DiagKind) (off : Nat) (p : Spi) : Spi := p.emit (.diag k off)

/-- `IrqUpdate(UART)` (40_regbank_irq.md R122). -/
def Uart.irqUpdate (u : Uart) : Uart :=
  if u.level = u.irq then u else { u with irq := u.level }.emit (.irqEdge .uart u.level)

/-- `IrqUpdate(SPI)` (40_regbank_irq.md R122). -/
def Spi.irqUpdate (p : Spi) : Spi :=
  if p.level = p.irq then p else { p with irq := p.level }.emit (.irqEdge .spi p.level)

/-- `UpdateStatus()` (43_lpspi_transfer.md R205). -/
def Spi.updateStatus (c : Config) (p : Spi) : Spi :=
  { p with fsr := fsrOf p.tx p.rx, sr := srOf c p.tx p.rx p.sr, rsr := rsrOf p.rx }

/-- `cs[i] <- level; emit CsLevel(i, level)` (43_lpspi_transfer.md R210). -/
def Spi.driveLine (i : Nat) (level : Bool) (p : Spi) : Spi :=
  { p with cs := p.cs.set i level }.emit (.csLevel i level)

/-- The peer's answer to a word: the next one the host lined up, and otherwise any word, as Config.peer has it
(43_lpspi_transfer.md R214; log 8). -/
def Spi.answer (line : Nat) (w : Word) (p : Spi) : Word :=
  match p.peerAnswers with
  | r :: _ => r
  | []     => Config.peer p.trace line w

/-- `Exchange(p, w)`, with the answer pushed into rx: the body of the burst loop after its PopWord
(43_lpspi_transfer.md R210, R214). -/
def Spi.exchange (line : Nat) (w : Word) (p : Spi) : Spi :=
  { p with rx := pushWord p.rx (p.answer line w), peerAnswers := p.peerAnswers.tail }.emit
    (.exchange line w (p.answer line w))

/-- The loop of `Burst`: while tx holds a word and rx has room for one, pop, exchange, push (43_lpspi_transfer.md R210). Each
turn takes a word from tx, so the words tx holds at the start bound the turns. -/
def Spi.burstLoop (c : Config) (line : Nat) : Nat → Spi → Spi
  | 0, p => p
  | n + 1, p =>
    match popWord p.tx with
    | none => p
    | some (w, tx') =>
      if free c.rxCap p.rx < 4 then p
      else Spi.burstLoop c line n (Spi.exchange line w { p with tx := tx' })

/-- `Burst` once its checks have passed: assert the line, move the words, deassert it, and bring status and IRQ up to date
(43_lpspi_transfer.md R210). -/
def Spi.runBurst (c : Config) (line : Nat) (p : Spi) : Spi :=
  let p1 := Spi.burstLoop c line (used p.tx / 4) (p.driveLine line false)
  let p2 := p1.driveLine line true
  let p3 := if used p2.tx = 0 then p2.setMbf false else p2
  (p3.updateStatus c).irqUpdate

/-- `Burst(off)` (43_lpspi_transfer.md R210): MEN, then back-pressure, then the chip-select index are checked. -/
def Spi.burst (c : Config) (off : Nat) (p : Spi) : Spi :=
  if p.men = false then p
  else if used p.tx < 4 ∨ free c.rxCap p.rx < 4 then p
  else if c.numCs ≤ pcsOf p.tcr then p.diag .badChipSelect off
  else p.runBurst c (pcsOf p.tcr)

/-- `Reset(UART)` (41_lpuart.md R131). -/
def Uart.reset (c : Config) (u : Uart) : Uart :=
  { u with ctrl := 0, stat := 0x00800000, baud := c.baudReset, rxCell := 0 }.irqUpdate

/-- The `CsLevel(i, 1)` events of a reset, one for each line that was low, in order from line i
(42_lpspi_registers.md R160). -/
def releaseEvents (i : Nat) : List Bool → List Event
  | [] => []
  | true :: rest => releaseEvents (i + 1) rest
  | false :: rest => .csLevel i true :: releaseEvents (i + 1) rest

/-- `Reset(SPI)` (42_lpspi_registers.md R160). -/
def Spi.reset (c : Config) (p : Spi) : Spi :=
  let p1 := { p with
    cr := 0, ier := 0, der := 0, cfgr0 := 0, cfgr1 := 0, ccr := 0, fcr := 0, tcr := 0
    sr := 0x00000001, rdr := 0, tx := [], rx := []
    cs := p.cs.map fun _ => true
    trace := p.trace ++ releaseEvents 0 p.cs }
  (p1.updateStatus c).irqUpdate

/-- A read of the LPUART: the register's rule, then IrqUpdate, and the value returned (40_regbank_irq.md R113). -/
def State.uartRead (rule : Uart → Word × Uart) (s : State) : State :=
  { s with uart := (rule s.uart).2.irqUpdate, result := some (rule s.uart).1 }

/-- A write to the LPUART: the register's rule, then IrqUpdate (40_regbank_irq.md R116). -/
def State.uartWrite (rule : Uart → Uart) (s : State) : State :=
  { s with uart := (rule s.uart).irqUpdate, result := none }

/-- An event of the LPUART, whose rule holds its own IrqUpdate (41_lpuart.md R131, R141). -/
def State.uartEvent (rule : Uart → Uart) (s : State) : State :=
  { s with uart := rule s.uart, result := none }

/-- A read of the LPSPI: UpdateStatus, the register's rule, IrqUpdate, and the value returned (40_regbank_irq.md R113). -/
def State.spiRead (rule : Spi → Word × Spi) (s : State) : State :=
  { s with
    spi := (rule (s.spi.updateStatus s.config)).2.irqUpdate
    result := some (rule (s.spi.updateStatus s.config)).1 }

/-- A write to the LPSPI: the register's rule, UpdateStatus, IrqUpdate (40_regbank_irq.md R116). -/
def State.spiWrite (rule : Spi → Spi) (s : State) : State :=
  { s with spi := ((rule s.spi).updateStatus s.config).irqUpdate, result := none }

/-- An event of the LPSPI, whose rule holds its own UpdateStatus and IrqUpdate (42_lpspi_registers.md R160). -/
def State.spiEvent (rule : Spi → Spi) (s : State) : State :=
  { s with spi := rule s.spi, result := none }

/-- The diagnostic of a read at an unmapped offset: inside the region (40_regbank_irq.md R114), or beyond it (R115). -/
def unmappedReadKind (region off : Nat) : DiagKind :=
  if off < region then .unimplementedOffsetRead else .outOfRangeOffsetRead

/-- The diagnostic of a write at an unmapped offset: inside the region (40_regbank_irq.md R114), or beyond it (R115). -/
def unmappedWriteKind (region off : Nat) : DiagKind :=
  if off < region then .unimplementedOffsetWrite else .outOfRangeOffsetWrite

/-- A write to an RO register of the LPSPI, dropped with a diagnostic (40_regbank_irq.md R111, R116). -/
def spiReadOnlyWrite (off : Nat) (p : Spi) : Spi := p.diag .readOnlyWrite off

end Sys2Proof.Machine
end

