-- ==== Sys2Proof/Machine/Lpspi.lean ====
section
/-! DEFINITION. The LPSPI's register rules (42_lpspi_registers.md R160 to R190; 40_regbank_irq.md R114, R115, R117), and the
meaning of each instruction of the LPSPI family: the rule inside the dispatcher's steps (40_regbank_irq.md R113, R116). -/

namespace Sys2Proof.Machine

/-- `RD SPI.VERID` (42_lpspi_registers.md R162). -/
def spiReadVerid (c : Config) (p : Spi) : Word × Spi := (c.veridValue, p)

/-- `RD SPI.PARAM` (42_lpspi_registers.md R164). -/
def spiReadParam (c : Config) (p : Spi) : Word × Spi := (c.paramValue, p)

/-- `RD SPI.CR` (42_lpspi_registers.md R167). -/
def spiReadCr (p : Spi) : Word × Spi := (p.cr, p)

/-- `RD SPI.SR` (42_lpspi_registers.md R169). -/
def spiReadSr (p : Spi) : Word × Spi := (p.sr, p)

/-- `RD SPI.IER` (42_lpspi_registers.md R171). -/
def spiReadIer (p : Spi) : Word × Spi := (p.ier, p)

/-- `RD SPI.DER` (42_lpspi_registers.md R173). -/
def spiReadDer (p : Spi) : Word × Spi := (p.der, p)

/-- `RD SPI.CFGR0` (42_lpspi_registers.md R175). -/
def spiReadCfgr0 (p : Spi) : Word × Spi := (p.cfgr0, p)

/-- `RD SPI.CFGR1` (42_lpspi_registers.md R177). -/
def spiReadCfgr1 (p : Spi) : Word × Spi := (p.cfgr1, p)

/-- `RD SPI.CCR` (42_lpspi_registers.md R179). -/
def spiReadCcr (p : Spi) : Word × Spi := (p.ccr, p)

/-- `RD SPI.FCR` (42_lpspi_registers.md R181). -/
def spiReadFcr (p : Spi) : Word × Spi := (p.fcr, p)

/-- `RD SPI.FSR` (42_lpspi_registers.md R183). -/
def spiReadFsr (p : Spi) : Word × Spi := (p.fsr, p)

/-- `RD SPI.TCR` (42_lpspi_registers.md R185). -/
def spiReadTcr (p : Spi) : Word × Spi := (p.tcr, p)

/-- `RD SPI.TDR`, a WO register: 0, with no side effect (40_regbank_irq.md R117, D6). -/
def spiReadTdr (p : Spi) : Word × Spi := (0, p)

/-- `RD SPI.RSR` (42_lpspi_registers.md R188). -/
def spiReadRsr (p : Spi) : Word × Spi := (p.rsr, p)

/-- `RD SPI.RDR`: 0 and nothing else with no word in rx, and otherwise the popped word, with a burst run first if MEN is set
(42_lpspi_registers.md R190). -/
def spiReadRdr (c : Config) (p : Spi) : Word × Spi :=
  match popWord p.rx with
  | none => (0, p)
  | some (w, rx') =>
    let p1 := { p with rx := rx', rdr := w }
    let p2 := if p1.men then p1.burst c 0x74 else p1
    (w, p2.updateStatus c)

/-- `WR SPI.CR, V`: RST resets and stores nothing, RSTF clears both FIFOs, and V is stored (42_lpspi_registers.md R166). -/
def spiWriteCr (c : Config) (v : Word) (p : Spi) : Spi :=
  if rstBit v then p.reset c
  else if rstfBit v then { p with tx := [], rx := [], cr := v }
  else { p with cr := v }

/-- `WR SPI.SR, V`: write-1-to-clear over the whole word (42_lpspi_registers.md R168). -/
def spiWriteSr (v : Word) (p : Spi) : Spi := { p with sr := w1cWrite srW1cMask v p.sr }

/-- `WR SPI.IER, V` (42_lpspi_registers.md R170). -/
def spiWriteIer (v : Word) (p : Spi) : Spi := { p with ier := v }

/-- `WR SPI.DER, V` (42_lpspi_registers.md R172). -/
def spiWriteDer (v : Word) (p : Spi) : Spi := { p with der := v }

/-- `WR SPI.CFGR0, V` (42_lpspi_registers.md R174). -/
def spiWriteCfgr0 (v : Word) (p : Spi) : Spi := { p with cfgr0 := v }

/-- `WR SPI.CFGR1, V` (42_lpspi_registers.md R176). -/
def spiWriteCfgr1 (v : Word) (p : Spi) : Spi := { p with cfgr1 := v }

/-- `WR SPI.CCR, V` (42_lpspi_registers.md R178). -/
def spiWriteCcr (v : Word) (p : Spi) : Spi := { p with ccr := v }

/-- `WR SPI.FCR, V` (42_lpspi_registers.md R180). -/
def spiWriteFcr (v : Word) (p : Spi) : Spi := { p with fcr := v }

/-- `WR SPI.TCR, V`: V stored, then a burst with the new PCS if MEN is set (42_lpspi_registers.md R184). -/
def spiWriteTcr (c : Config) (v : Word) (p : Spi) : Spi :=
  let p1 := { p with tcr := v }
  if p1.men then p1.burst c 0x60 else p1

/-- `WR SPI.TDR, V`: rejected when disabled or full, and otherwise V is queued and a burst run (42_lpspi_registers.md R186). -/
def spiWriteTdr (c : Config) (v : Word) (p : Spi) : Spi :=
  if p.men = false then p.diag .moduleDisabled 0x64
  else if free c.txCap p.tx < 4 then p.diag .txFifoFull 0x64
  else
    let p1 := p.setMbf true
    Spi.burst c 0x64 { p1 with tx := pushWord p1.tx v }

/-- A read of an unmapped LPSPI offset (40_regbank_irq.md R114, R115). -/
def spiUnmappedRead (c : Config) (off : Nat) (p : Spi) : Word × Spi :=
  (0, p.diag (unmappedReadKind c.spiRegionBytes off) off)

/-- A write to an unmapped LPSPI offset (40_regbank_irq.md R114, R115). -/
def spiUnmappedWrite (c : Config) (off : Nat) (p : Spi) : Spi :=
  p.diag (unmappedWriteKind c.spiRegionBytes off) off

/-- RD.SPI.VERID. -/
def execRdSpiVerid (s : State) : Answer := .next (s.spiRead (spiReadVerid s.config))

/-- RD.SPI.PARAM. -/
def execRdSpiParam (s : State) : Answer := .next (s.spiRead (spiReadParam s.config))

/-- RD.SPI.CR. -/
def execRdSpiCr (s : State) : Answer := .next (s.spiRead spiReadCr)

/-- RD.SPI.SR. -/
def execRdSpiSr (s : State) : Answer := .next (s.spiRead spiReadSr)

/-- RD.SPI.IER. -/
def execRdSpiIer (s : State) : Answer := .next (s.spiRead spiReadIer)

/-- RD.SPI.DER. -/
def execRdSpiDer (s : State) : Answer := .next (s.spiRead spiReadDer)

/-- RD.SPI.CFGR0. -/
def execRdSpiCfgr0 (s : State) : Answer := .next (s.spiRead spiReadCfgr0)

/-- RD.SPI.CFGR1. -/
def execRdSpiCfgr1 (s : State) : Answer := .next (s.spiRead spiReadCfgr1)

/-- RD.SPI.CCR. -/
def execRdSpiCcr (s : State) : Answer := .next (s.spiRead spiReadCcr)

/-- RD.SPI.FCR. -/
def execRdSpiFcr (s : State) : Answer := .next (s.spiRead spiReadFcr)

/-- RD.SPI.FSR. -/
def execRdSpiFsr (s : State) : Answer := .next (s.spiRead spiReadFsr)

/-- RD.SPI.TCR. -/
def execRdSpiTcr (s : State) : Answer := .next (s.spiRead spiReadTcr)

/-- RD.SPI.TDR. -/
def execRdSpiTdr (s : State) : Answer := .next (s.spiRead spiReadTdr)

/-- RD.SPI.RSR. -/
def execRdSpiRsr (s : State) : Answer := .next (s.spiRead spiReadRsr)

/-- RD.SPI.RDR. -/
def execRdSpiRdr (s : State) : Answer := .next (s.spiRead (spiReadRdr s.config))

/-- WR.SPI.VERID, a write to an RO register: V is discarded (42_lpspi_registers.md R163). -/
def execWrSpiVerid (s : State) : Answer := .next (s.spiWrite (spiReadOnlyWrite 0x00))

/-- WR.SPI.PARAM, a write to an RO register (42_lpspi_registers.md R165). -/
def execWrSpiParam (s : State) : Answer := .next (s.spiWrite (spiReadOnlyWrite 0x04))

/-- WR.SPI.CR. -/
def execWrSpiCr (v : Word) (s : State) : Answer := .next (s.spiWrite (spiWriteCr s.config v))

/-- WR.SPI.SR. -/
def execWrSpiSr (v : Word) (s : State) : Answer := .next (s.spiWrite (spiWriteSr v))

/-- WR.SPI.IER. -/
def execWrSpiIer (v : Word) (s : State) : Answer := .next (s.spiWrite (spiWriteIer v))

/-- WR.SPI.DER. -/
def execWrSpiDer (v : Word) (s : State) : Answer := .next (s.spiWrite (spiWriteDer v))

/-- WR.SPI.CFGR0. -/
def execWrSpiCfgr0 (v : Word) (s : State) : Answer := .next (s.spiWrite (spiWriteCfgr0 v))

/-- WR.SPI.CFGR1. -/
def execWrSpiCfgr1 (v : Word) (s : State) : Answer := .next (s.spiWrite (spiWriteCfgr1 v))

/-- WR.SPI.CCR. -/
def execWrSpiCcr (v : Word) (s : State) : Answer := .next (s.spiWrite (spiWriteCcr v))

/-- WR.SPI.FCR. -/
def execWrSpiFcr (v : Word) (s : State) : Answer := .next (s.spiWrite (spiWriteFcr v))

/-- WR.SPI.FSR, a write to an RO register (42_lpspi_registers.md R182). -/
def execWrSpiFsr (s : State) : Answer := .next (s.spiWrite (spiReadOnlyWrite 0x5C))

/-- WR.SPI.TCR. -/
def execWrSpiTcr (v : Word) (s : State) : Answer := .next (s.spiWrite (spiWriteTcr s.config v))

/-- WR.SPI.TDR. -/
def execWrSpiTdr (v : Word) (s : State) : Answer := .next (s.spiWrite (spiWriteTdr s.config v))

/-- WR.SPI.RSR, a write to an RO register (42_lpspi_registers.md R187). -/
def execWrSpiRsr (s : State) : Answer := .next (s.spiWrite (spiReadOnlyWrite 0x70))

/-- WR.SPI.RDR, a write to an RO register (42_lpspi_registers.md R189). -/
def execWrSpiRdr (s : State) : Answer := .next (s.spiWrite (spiReadOnlyWrite 0x74))

/-- RST.SPI (42_lpspi_registers.md R160). -/
def execRstSpi (s : State) : Answer := .next (s.spiEvent (Spi.reset s.config))

/-- RD.SPI.UNMAPPED. -/
def execRdSpiUnmapped (o : Offset) (s : State) : Answer := .next (s.spiRead (spiUnmappedRead s.config o.toNat))

/-- WR.SPI.UNMAPPED: V is discarded. -/
def execWrSpiUnmapped (o : Offset) (s : State) : Answer := .next (s.spiWrite (spiUnmappedWrite s.config o.toNat))

end Sys2Proof.Machine
end

