-- ==== Sys2Proof/Machine/Lpuart.lean ====
section
/-! DEFINITION. The LPUART's register rules and events (41_lpuart.md R131 to R141), and the meaning of each instruction of the
LPUART family: the rule inside the dispatcher's steps (40_regbank_irq.md R113, R116). -/

namespace Sys2Proof.Machine

/-- `RD UART.BAUD` (41_lpuart.md R137). -/
def uartReadBaud (u : Uart) : Word × Uart := (u.baud, u)

/-- `RD UART.STAT` (41_lpuart.md R138). -/
def uartReadStat (u : Uart) : Word × Uart := (u.stat, u)

/-- `RD UART.CTRL` (41_lpuart.md R140). -/
def uartReadCtrl (u : Uart) : Word × Uart := (u.ctrl, u)

/-- `RD UART.DATA`: the cell, RDRF cleared, RxRoom emitted (41_lpuart.md R139). -/
def uartReadData (u : Uart) : Word × Uart := (dataValue u.rxCell, (u.setRdrf false).emit .rxRoom)

/-- `WR UART.BAUD, V`: V stored whole and its baud reported (41_lpuart.md R132). -/
def uartWriteBaud (clockHz : Nat) (v : Word) (u : Uart) : Uart :=
  { u with baud := v }.emit (.setParams (baudRate clockHz (osrOf v) (sbrOf v)))

/-- `WR UART.STAT, V`: write-1-to-clear, then TDRE re-asserted (41_lpuart.md R134). -/
def uartWriteStat (v : Word) (u : Uart) : Uart :=
  { u with stat := w1cWrite statW1cMask v u.stat }.setTdre true

/-- `WR UART.CTRL, V` (41_lpuart.md R135). -/
def uartWriteCtrl (v : Word) (u : Uart) : Uart := { u with ctrl := v }

/-- `WR UART.DATA, V`: with TE, V[7:0] is sent and TDRE stays asserted; without it nothing happens (41_lpuart.md R136). -/
def uartWriteData (v : Word) (u : Uart) : Uart :=
  if u.te then (u.emit (.txByte (dataByte v))).setTdre true else u

/-- `RxByte(b)`: the byte is stored if RE is set and the cell is empty, and dropped otherwise (41_lpuart.md R141). -/
def uartRxByte (b : Byte) (u : Uart) : Uart :=
  (if u.re ∧ u.rdrf = false then { u with rxCell := b }.setRdrf true else u).irqUpdate

/-- A read of an unmapped LPUART offset (40_regbank_irq.md R114, R115). -/
def uartUnmappedRead (c : Config) (off : Nat) (u : Uart) : Word × Uart :=
  (0, u.diag (unmappedReadKind c.uartRegionBytes off) off)

/-- A write to an unmapped LPUART offset (40_regbank_irq.md R114, R115). -/
def uartUnmappedWrite (c : Config) (off : Nat) (u : Uart) : Uart :=
  u.diag (unmappedWriteKind c.uartRegionBytes off) off

/-- RD.UART.BAUD. -/
def execRdUartBaud (s : State) : Answer := .next (s.uartRead uartReadBaud)

/-- RD.UART.STAT. -/
def execRdUartStat (s : State) : Answer := .next (s.uartRead uartReadStat)

/-- RD.UART.CTRL. -/
def execRdUartCtrl (s : State) : Answer := .next (s.uartRead uartReadCtrl)

/-- RD.UART.DATA. -/
def execRdUartData (s : State) : Answer := .next (s.uartRead uartReadData)

/-- WR.UART.BAUD. CLOCK_HZ is sampled here (D14). -/
def execWrUartBaud (v : Word) (s : State) : Answer := .next (s.uartWrite (uartWriteBaud s.clockHz v))

/-- WR.UART.STAT. -/
def execWrUartStat (v : Word) (s : State) : Answer := .next (s.uartWrite (uartWriteStat v))

/-- WR.UART.CTRL. -/
def execWrUartCtrl (v : Word) (s : State) : Answer := .next (s.uartWrite (uartWriteCtrl v))

/-- WR.UART.DATA. -/
def execWrUartData (v : Word) (s : State) : Answer := .next (s.uartWrite (uartWriteData v))

/-- RST.UART (41_lpuart.md R131). -/
def execRstUart (s : State) : Answer := .next (s.uartEvent (Uart.reset s.config))

/-- EV.UART.RXBYTE. -/
def execEvUartRxbyte (b : Byte) (s : State) : Answer := .next (s.uartEvent (uartRxByte b))

/-- RD.UART.UNMAPPED. -/
def execRdUartUnmapped (o : Offset) (s : State) : Answer := .next (s.uartRead (uartUnmappedRead s.config o.toNat))

/-- WR.UART.UNMAPPED: V is discarded. -/
def execWrUartUnmapped (o : Offset) (s : State) : Answer := .next (s.uartWrite (uartUnmappedWrite s.config o.toNat))

end Sys2Proof.Machine
end

