-- ==== Sys2Proof/Machine/Reserved.lean ====
section
/-! DEFINITION. The refusal rows of spec/opcode_table.json: calls that the spec gives no meaning (30_encoding.md R92, R101;
20_memory.md R73, R74; 60_exceptions.md R236). A refused call changes no state and emits no event. -/

namespace Sys2Proof.Machine

/-- RESERVED.K3: `refuse ReservedDescriptor` (30_encoding.md R92 step 1). -/
def execReservedK3 (_s : State) : Answer := .refused .reservedDescriptor

/-- RESERVED.Z0: `refuse ReservedDescriptor` (30_encoding.md R92 step 1). -/
def execReservedZ0 (_s : State) : Answer := .refused .reservedDescriptor

/-- RESERVED.Z1: `refuse ReservedDescriptor` (30_encoding.md R92 step 1). -/
def execReservedZ1 (_s : State) : Answer := .refused .reservedDescriptor

/-- RESERVED.Z2: `refuse ReservedDescriptor` (30_encoding.md R92 step 1). -/
def execReservedZ2 (_s : State) : Answer := .refused .reservedDescriptor

/-- RESERVED.S3: `refuse ReservedDescriptor` (30_encoding.md R92 step 3). -/
def execReservedS3 (_s : State) : Answer := .refused .reservedDescriptor

/-- SUBWORD: `refuse SubwordAccess` (20_memory.md R73). -/
def execSubword (_s : State) : Answer := .refused .subwordAccess

/-- MISALIGNED.B0: `refuse MisalignedAccess` (20_memory.md R74). -/
def execMisalignedB0 (_s : State) : Answer := .refused .misalignedAccess

/-- MISALIGNED.B1: `refuse MisalignedAccess` (20_memory.md R74). -/
def execMisalignedB1 (_s : State) : Answer := .refused .misalignedAccess

/-- EV.RESERVED: `refuse ReservedDescriptor` (30_encoding.md R91, R92 step 1). -/
def execEvReserved (_s : State) : Answer := .refused .reservedDescriptor

end Sys2Proof.Machine
end

