-- ==== Sys2Proof/Machine/Dispatch.lean ====
section
/-! DEFINITION. One arm per instruction, each a direct call of its meaning. -/

namespace Sys2Proof.Machine

def exec (i : Instr) (s : State) : Host.Outcome State Fault Refusal :=
  match i with
  | .rdUartBaud => Sys2Proof.Machine.execRdUartBaud s
  | .rdUartStat => Sys2Proof.Machine.execRdUartStat s
  | .rdUartCtrl => Sys2Proof.Machine.execRdUartCtrl s
  | .rdUartData => Sys2Proof.Machine.execRdUartData s
  | .wrUartBaud v => Sys2Proof.Machine.execWrUartBaud v s
  | .wrUartStat v => Sys2Proof.Machine.execWrUartStat v s
  | .wrUartCtrl v => Sys2Proof.Machine.execWrUartCtrl v s
  | .wrUartData v => Sys2Proof.Machine.execWrUartData v s
  | .rdSpiVerid => Sys2Proof.Machine.execRdSpiVerid s
  | .rdSpiParam => Sys2Proof.Machine.execRdSpiParam s
  | .rdSpiCr => Sys2Proof.Machine.execRdSpiCr s
  | .rdSpiSr => Sys2Proof.Machine.execRdSpiSr s
  | .rdSpiIer => Sys2Proof.Machine.execRdSpiIer s
  | .rdSpiDer => Sys2Proof.Machine.execRdSpiDer s
  | .rdSpiCfgr0 => Sys2Proof.Machine.execRdSpiCfgr0 s
  | .rdSpiCfgr1 => Sys2Proof.Machine.execRdSpiCfgr1 s
  | .rdSpiCcr => Sys2Proof.Machine.execRdSpiCcr s
  | .rdSpiFcr => Sys2Proof.Machine.execRdSpiFcr s
  | .rdSpiFsr => Sys2Proof.Machine.execRdSpiFsr s
  | .rdSpiTcr => Sys2Proof.Machine.execRdSpiTcr s
  | .rdSpiTdr => Sys2Proof.Machine.execRdSpiTdr s
  | .rdSpiRsr => Sys2Proof.Machine.execRdSpiRsr s
  | .rdSpiRdr => Sys2Proof.Machine.execRdSpiRdr s
  | .wrSpiVerid _ => Sys2Proof.Machine.execWrSpiVerid s
  | .wrSpiParam _ => Sys2Proof.Machine.execWrSpiParam s
  | .wrSpiCr v => Sys2Proof.Machine.execWrSpiCr v s
  | .wrSpiSr v => Sys2Proof.Machine.execWrSpiSr v s
  | .wrSpiIer v => Sys2Proof.Machine.execWrSpiIer v s
  | .wrSpiDer v => Sys2Proof.Machine.execWrSpiDer v s
  | .wrSpiCfgr0 v => Sys2Proof.Machine.execWrSpiCfgr0 v s
  | .wrSpiCfgr1 v => Sys2Proof.Machine.execWrSpiCfgr1 v s
  | .wrSpiCcr v => Sys2Proof.Machine.execWrSpiCcr v s
  | .wrSpiFcr v => Sys2Proof.Machine.execWrSpiFcr v s
  | .wrSpiFsr _ => Sys2Proof.Machine.execWrSpiFsr s
  | .wrSpiTcr v => Sys2Proof.Machine.execWrSpiTcr v s
  | .wrSpiTdr v => Sys2Proof.Machine.execWrSpiTdr v s
  | .wrSpiRsr _ => Sys2Proof.Machine.execWrSpiRsr s
  | .wrSpiRdr _ => Sys2Proof.Machine.execWrSpiRdr s
  | .rstUart => Sys2Proof.Machine.execRstUart s
  | .evUartRxbyte b => Sys2Proof.Machine.execEvUartRxbyte b s
  | .rstSpi => Sys2Proof.Machine.execRstSpi s
  | .reservedK3 _ _ _ _ => Sys2Proof.Machine.execReservedK3 s
  | .reservedZ0 _ _ _ _ _ => Sys2Proof.Machine.execReservedZ0 s
  | .reservedZ1 _ _ _ _ _ => Sys2Proof.Machine.execReservedZ1 s
  | .reservedZ2 _ _ _ _ => Sys2Proof.Machine.execReservedZ2 s
  | .reservedS3 _ _ _ => Sys2Proof.Machine.execReservedS3 s
  | .subword _ _ _ _ => Sys2Proof.Machine.execSubword s
  | .misalignedB0 _ _ _ => Sys2Proof.Machine.execMisalignedB0 s
  | .misalignedB1 _ _ _ => Sys2Proof.Machine.execMisalignedB1 s
  | .rdUartUnmapped o => Sys2Proof.Machine.execRdUartUnmapped o s
  | .wrUartUnmapped o _ => Sys2Proof.Machine.execWrUartUnmapped o s
  | .rdSpiUnmapped o => Sys2Proof.Machine.execRdSpiUnmapped o s
  | .wrSpiUnmapped o _ => Sys2Proof.Machine.execWrSpiUnmapped o s
  | .evReserved _ _ _ => Sys2Proof.Machine.execEvReserved s

end Sys2Proof.Machine
end

