-- ==== Sys2Proof/Machine/Step.lean ====
section
/-! DEFINITION. One step of the machine: the next item of the host's list is taken and done, whole (20_memory.md R80, R81;
10_state.md R21: the sequencing of the core is the order in which the host calls its entry points). -/

namespace Sys2Proof.Machine

/-- One step. With nothing pending nothing happens: "No component initiates work on its own" (00_scope.md R2; log 1). A clock
change returns and emits nothing and is not seen until the next BAUD write (70_reset_and_hazards.md R276, D14). -/
def step (s : State) : Host.Outcome State Fault Refusal :=
  match s.pending with
  | [] => .next s
  | .setClock hz :: rest => .next { s with clockHz := hz, pending := rest }
  | .call c :: rest => exec (decode c) { s with pending := rest }

/-- The state in which the next thing the host does is the call whose bits are w (log 1). -/
def State.withFetchWord (s : State) (nbits w : Nat) : State :=
  { s with pending := .call (callOfTableWord nbits w) :: s.pending }

end Sys2Proof.Machine
end

