-- ==== Sys2Proof/Machine/HostPrograms.lean ====
section
/-! DEFINITION. The pseudo-operations of host programs (30_encoding.md R106): each is a sequence of separate calls that the host
makes, not an operation of the core. -/

namespace Sys2Proof.Machine

/-- `RD X.REG` (30_encoding.md R105). -/
def readInstr : RegName → Instr
  | .uart r => readUartReg r
  | .spi r  => readSpiReg r

/-- `WR X.REG, V` (30_encoding.md R105). -/
def writeInstr (v : Word) : RegName → Instr
  | .uart r => writeUartReg v r
  | .spi r  => writeSpiReg v r

/-- A field at its bits, and every other bit 0: the value itself where the field can hold it, and otherwise a free value of the
field's width (30_encoding.md R106; log 25). -/
def placeField (f : Field) (value : Nat) : Word :=
  (BitVec.ofNat (fieldWidth f)
    (if value < 2 ^ fieldWidth f then value else Config.openFieldValue (fieldWidth f) value)).setWidth 32 <<< fieldLow f

/-- The word of `WRF`: each named field at its bits, and every other bit 0 (30_encoding.md R106). -/
def wrfValue : List (Field × Nat) → Word
  | [] => 0
  | (f, value) :: rest => placeField f value ||| wrfValue rest

/-- Whether the fields a `WRF` names are fields of its register, each named once. -/
def wrfNames (n : RegName) (fields : List (Field × Nat)) : Bool :=
  fields.all (fun p => decide (fieldReg p.1 = n)) && decide (fields.map Prod.fst).Nodup

/-- `WRF X.REG, F1=v1, ...` expands to `WR X.REG, V` (30_encoding.md R106). A list with a field of another register, or with one
field twice, spells no WRF, so it has no expansion (DESIGN CHOICE, log 25). -/
def wrf (n : RegName) (fields : List (Field × Nat)) (s : State) : Option Answer :=
  if wrfNames n fields then some (exec (writeInstr (wrfValue fields) n) s) else none

/-- A read, then a write of a function of the value read: two separate calls, not atomic. -/
def readThenWrite (n : RegName) (f : Word → Word) (s : State) : Answer :=
  match exec (readInstr n) s with
  | .next s1 => exec (writeInstr (f (s1.result.getD 0)) n) s1
  | stop     => stop

/-- `SETB X.REG, M`. -/
def setb (n : RegName) (m : Word) (s : State) : Answer := readThenWrite n (fun r => r ||| m) s

/-- `CLRB X.REG, M`. -/
def clrb (n : RegName) (m : Word) (s : State) : Answer := readThenWrite n (fun r => r &&& ~~~m) s

/-- `POLL X.REG, M, E`, at most n + 1 reads: reads are repeated until `(r & M) = E`. The bound is the model's DESIGN CHOICE (log
25): the spec sets none. -/
def poll (n : RegName) (m e : Word) : Nat → State → Answer
  | 0, s => exec (readInstr n) s
  | k + 1, s =>
    match exec (readInstr n) s with
    | .next s1 => if s1.result.getD 0 &&& m = e then .next s1 else poll n m e k s1
    | stop     => stop

end Sys2Proof.Machine
end

