-- ==== Sys2Proof/Machine/RegisterBank.lean ====
section
/-! DEFINITION. The RegisterBank dispatcher as the spec writes it (40_regbank_irq.md R113 to R119): the entry points by block,
offset and size (00_scope.md R11), and the call a descriptor's fields stand for (30_encoding.md R92). exec reaches the same
register rules by instruction; that the two agree is stated in the obligations. -/

namespace Sys2Proof.Machine

/-- `ReadRule(UART, off)`, or the unmapped rule (40_regbank_irq.md R113). -/
def uartReadRule (c : Config) (off : Nat) : Uart → Word × Uart :=
  match uartRegAt off with
  | some .baud => uartReadBaud
  | some .stat => uartReadStat
  | some .ctrl => uartReadCtrl
  | some .data => uartReadData
  | none       => uartUnmappedRead c off

/-- `WriteRule(UART, off, V)`, or the unmapped rule; no LPUART register is RO (40_regbank_irq.md R116, 41_lpuart.md R130). -/
def uartWriteRule (c : Config) (clockHz off : Nat) (v : Word) : Uart → Uart :=
  match uartRegAt off with
  | some .baud => uartWriteBaud clockHz v
  | some .stat => uartWriteStat v
  | some .ctrl => uartWriteCtrl v
  | some .data => uartWriteData v
  | none       => uartUnmappedWrite c off

/-- `ReadRule(SPI, off)`, or the unmapped rule (40_regbank_irq.md R113). -/
def spiReadRule (c : Config) (off : Nat) : Spi → Word × Spi :=
  match spiRegAt off with
  | some .verid => spiReadVerid c
  | some .param => spiReadParam c
  | some .cr    => spiReadCr
  | some .sr    => spiReadSr
  | some .ier   => spiReadIer
  | some .der   => spiReadDer
  | some .cfgr0 => spiReadCfgr0
  | some .cfgr1 => spiReadCfgr1
  | some .ccr   => spiReadCcr
  | some .fcr   => spiReadFcr
  | some .fsr   => spiReadFsr
  | some .tcr   => spiReadTcr
  | some .tdr   => spiReadTdr
  | some .rsr   => spiReadRsr
  | some .rdr   => spiReadRdr c
  | none        => spiUnmappedRead c off

/-- `WriteRule(SPI, off, V)` of a register that is not RO. An RO register has no write rule: the dispatcher never comes here
with one (40_regbank_irq.md R116). -/
def spiWriteHandler (c : Config) (v : Word) : SpiReg → Spi → Spi
  | .cr    => spiWriteCr c v
  | .sr    => spiWriteSr v
  | .ier   => spiWriteIer v
  | .der   => spiWriteDer v
  | .cfgr0 => spiWriteCfgr0 v
  | .cfgr1 => spiWriteCfgr1 v
  | .ccr   => spiWriteCcr v
  | .fcr   => spiWriteFcr v
  | .tcr   => spiWriteTcr c v
  | .tdr   => spiWriteTdr c v
  | .verid | .param | .fsr | .rsr | .rdr => id

/-- The write of the LPSPI at an offset: an RO register's is dropped with a diagnostic (40_regbank_irq.md R116). -/
def spiWriteRule (c : Config) (off : Nat) (v : Word) : Spi → Spi :=
  match spiRegAt off with
  | some r => if spiClass r = .ro then spiReadOnlyWrite off else spiWriteHandler c v r
  | none   => spiUnmappedWrite c off

/-- `Read(X, off, size)` (40_regbank_irq.md R113). -/
def hostRead (b : Block) (off size : Nat) (s : State) : Answer :=
  if size ≠ 4 then .refused .subwordAccess
  else if off % 4 ≠ 0 then .refused .misalignedAccess
  else
    match b with
    | .uart => .next (s.uartRead (uartReadRule s.config off))
    | .spi  => .next (s.spiRead (spiReadRule s.config off))

/-- `Write(X, off, size, V)` (40_regbank_irq.md R116). -/
def hostWrite (b : Block) (off size : Nat) (v : Word) (s : State) : Answer :=
  if size ≠ 4 then .refused .subwordAccess
  else if off % 4 ≠ 0 then .refused .misalignedAccess
  else
    match b with
    | .uart => .next (s.uartWrite (uartWriteRule s.config s.clockHz off v))
    | .spi  => .next (s.spiWrite (spiWriteRule s.config off v))

/-- `Reset(X)` (41_lpuart.md R131, 42_lpspi_registers.md R160). -/
def hostReset (b : Block) (s : State) : Answer :=
  match b with
  | .uart => .next (s.uartEvent (Uart.reset s.config))
  | .spi  => .next (s.spiEvent (Spi.reset s.config))

/-- `RxByte(b)` (41_lpuart.md R141). -/
def hostRxByte (b : Byte) (s : State) : Answer := .next (s.uartEvent (uartRxByte b))

/-- The size in bytes of size code S = 0, 1, 2 (30_encoding.md R90). -/
def sizeOfCode (code : BitVec 2) : Nat := 2 ^ code.toNat

/-- The entry point a descriptor's fields and operand stand for, by the steps of 30_encoding.md R92. -/
def hostCall (f : Fields) (v : Word) (s : State) : Answer :=
  if f.k = 3 ∨ f.z ≠ 0 ∨ (f.k = 2 ∧ isEventNumber f.b f.s f.o = false) then .refused .reservedDescriptor
  else if f.k = 2 then (if f.o = 0 then hostReset f.b s else hostRxByte (lowByte v) s)
  else if f.s = 3 then .refused .reservedDescriptor
  else if f.k = 0 then hostRead f.b f.o.toNat (sizeOfCode f.s) s
  else hostWrite f.b f.o.toNat (sizeOfCode f.s) v s

/-- The block whose region holds a guest address, with the offset in it, if either does (00_scope.md R11, 20_memory.md R71). -/
def regionOf (c : Config) (addr : Nat) : Option (Block × Nat) :=
  if c.uartBase ≤ addr ∧ addr < c.uartBase + c.uartRegionBytes then some (.uart, addr - c.uartBase)
  else if c.spiBase ≤ addr ∧ addr < c.spiBase + c.spiRegionBytes then some (.spi, addr - c.spiBase)
  else none

/-- `MemRead(addr, n)` is `Read(X, addr - X_BASE, n)` where addr lies in a region; the core makes no other memory access
(00_scope.md R11). -/
def memRead (addr n : Nat) (s : State) : Option Answer :=
  (regionOf s.config addr).map fun r => hostRead r.1 r.2 n s

/-- `MemWrite(addr, n, v)` is `Write(X, addr - X_BASE, n, v)` where addr lies in a region (00_scope.md R11). -/
def memWrite (addr n : Nat) (v : Word) (s : State) : Option Answer :=
  (regionOf s.config addr).map fun r => hostWrite r.1 r.2 n v s

end Sys2Proof.Machine
end

