-- ==== Sys2Proof/Safety.lean ====
section
/-! DEFINITION. What counts as a good state, in the terms claims use: the invariants of a quiescent point (10_state.md R29, R30,
R44, R60), the LPSPI state with its status and line brought up to date, what a burst may do, and what a register holds, each written from the rules
that describe it and not from the operations of Machine/Ops.lean. -/

namespace Sys2Proof.Machine

/-- The LPUART at a quiescent point (10_state.md R29, R30). -/
abbrev Uart.Quiescent (u : Uart) : Prop :=
  (u.stat = 0x00800000 ∨ u.stat = 0x00A00000) ∧ u.irq = ((u.rie && u.rdrf) || (u.tie && u.tdre))

/-- The value of SR that 10_state.md R60 gives for the FIFOs. -/
def statusWord (c : Config) (tx rx : List Byte) : Word :=
  (if 4 ≤ free c.txCap tx then 0x1 else 0) ||| (if 4 ≤ used rx then 0x2 else 0)
    ||| (if used tx ≠ 0 then 0x01000000 else 0)

/-- The value of FSR that 10_state.md R60 gives for the FIFOs: the RX word count above bit 16, the TX word count below. -/
def countWord (tx rx : List Byte) : Word := BitVec.ofNat 32 (65536 * (used rx / 4) + used tx / 4)

/-- The value of RSR that 10_state.md R60 gives for the FIFOs. -/
def emptyWord (rx : List Byte) : Word := if rx = [] then 0x2 else 0

/-- The LPSPI line level as 43_lpspi_transfer.md R220 writes it, on what TDF and RDF stand for. -/
def spiLine (c : Config) (ier : Word) (tx rx : List Byte) : Bool :=
  (ier.getLsbD 0 && decide (4 ≤ free c.txCap tx)) || (ier.getLsbD 1 && decide (4 ≤ used rx))

/-- The IrqEdge event of a line that goes from one level to another, if it changes (40_regbank_irq.md R122). -/
def edge (b : Block) (was now : Bool) : List Event := if was = now then [] else [.irqEdge b now]

/-- The LPSPI with its derived registers and its line as the FIFOs and IER have them, and the edge emitted if the line
changes. -/
def Spi.settled (c : Config) (p : Spi) : Spi :=
  { p with
    fsr := countWord p.tx p.rx
    sr := statusWord c p.tx p.rx
    rsr := emptyWord p.rx
    irq := spiLine c p.ier p.tx p.rx
    trace := p.trace ++ edge .spi p.irq (spiLine c p.ier p.tx p.rx) }

/-- The LPSPI at a quiescent point (10_state.md R44, R60). -/
abbrev Spi.Quiescent (c : Config) (p : Spi) : Prop :=
  p.tx.length % 4 = 0 ∧ p.rx.length % 4 = 0 ∧ p.tx.length ≤ c.txCap ∧ p.rx.length ≤ c.rxCap
    ∧ p.sr = statusWord c p.tx p.rx ∧ p.fsr = countWord p.tx p.rx ∧ p.rsr = emptyWord p.rx
    ∧ p.cs = List.replicate c.numCs true ∧ p.irq = spiLine c p.ier p.tx p.rx ∧ p.cr.getLsbD 1 = false

/-- The machine at a quiescent point, with legal parameters. -/
abbrev State.Quiescent (s : State) : Prop :=
  s.config.legal = true ∧ s.uart.Quiescent ∧ s.spi.Quiescent s.config

/-- The words of a FIFO's bytes, oldest first, each least significant byte first (43_lpspi_transfer.md R202). -/
def wordsOf : List Byte → List Word
  | b0 :: b1 :: b2 :: b3 :: rest => (b3 ++ b2 ++ b1 ++ b0) :: wordsOf rest
  | _ => []

/-- The number of words a burst moves: `min(Used(tx) / 4, Free(rx) / 4)` (43_lpspi_transfer.md R213). -/
def burstWords (c : Config) (p : Spi) : Nat := min (used p.tx / 4) (free c.rxCap p.rx / 4)

/-- The LPSPI after a burst on a line that passed its checks and got the given answers (43_lpspi_transfer.md R210, R212 to R214):
the line asserted once and deasserted once, the oldest words of tx swapped in order for the answers. -/
def Spi.afterBurst (c : Config) (line : Nat) (answers : List Word) (p : Spi) : Spi :=
  { p with
    tx := p.tx.drop (4 * burstWords c p)
    rx := p.rx ++ fifoOfWords answers
    peerAnswers := p.peerAnswers.drop (burstWords c p)
    trace := p.trace ++ (.csLevel line false
      :: List.zipWith (fun w r => .exchange line w r) (wordsOf p.tx) answers ++ [.csLevel line true]) }

/-- What `Burst(off)` may make of an LPSPI state whose lines are all high, before status and line are brought up to date
(43_lpspi_transfer.md R210): nothing when disabled or held back; a diagnostic when the chip-select index is bad; and otherwise
the words move, the host's answers first in their order and any words where it lined up none. -/
def Spi.BurstOutcome (c : Config) (off : Nat) (p q : Spi) : Prop :=
  if p.men = false ∨ used p.tx < 4 ∨ free c.rxCap p.rx < 4 then q = p
  else if c.numCs ≤ pcsOf p.tcr then q = { p with trace := p.trace ++ [.diag .badChipSelect off] }
  else ∃ answers : List Word,
    answers.length = burstWords c p ∧ p.peerAnswers.take (burstWords c p) <+: answers
      ∧ q = p.afterBurst c (pcsOf p.tcr) answers

/-- The access class of a register of either block (40_regbank_irq.md R112). -/
def classOf : RegName → AccessClass
  | .uart r => uartClass r
  | .spi r  => spiClass r

/-- The stored or derived value of an LPUART register, and none for DATA, which has no storage (10_state.md R22, R26). -/
def Uart.stored (u : Uart) : UartReg → Option Word
  | .baud => some u.baud
  | .stat => some u.stat
  | .ctrl => some u.ctrl
  | .data => none

/-- The stored or derived value of an LPSPI register, and none for TDR, which has no storage (10_state.md R40, R54); RDR's is the
oldest word of rx, and 0 where rx holds none (42_lpspi_registers.md R190). -/
def Spi.stored (c : Config) (p : Spi) : SpiReg → Option Word
  | .verid => some c.veridValue
  | .param => some c.paramValue
  | .cr    => some p.cr
  | .sr    => some p.sr
  | .ier   => some p.ier
  | .der   => some p.der
  | .cfgr0 => some p.cfgr0
  | .cfgr1 => some p.cfgr1
  | .ccr   => some p.ccr
  | .fcr   => some p.fcr
  | .fsr   => some p.fsr
  | .tcr   => some p.tcr
  | .tdr   => none
  | .rsr   => some p.rsr
  | .rdr   => some ((wordsOf p.rx).headD 0)

/-- The stored or derived value of a register of either block. -/
def State.stored (s : State) : RegName → Option Word
  | .uart r => s.uart.stored r
  | .spi r  => s.spi.stored s.config r

/-- The bits of a W1C register that its write handler sets or recomputes after the clear (40_regbank_irq.md R112): TDRE of STAT;
TDF, RDF and MBF of SR. -/
def handlerBits : RegName → Word
  | .uart .stat => 0x00800000
  | .spi .sr    => 0x01000003
  | _           => 0

/-- Whether a write is the one with `CR.RST` set, which resets the LPSPI and stores nothing (42_lpspi_registers.md R166). -/
def isRstWrite (n : RegName) (v : Word) : Bool := decide (n = .spi .cr) && rstBit v

/-- The events the LPUART emitted between two states, the second later. -/
def newUartEvents (s t : State) : List Event := t.uart.trace.drop s.uart.trace.length

/-- The events the LPSPI emitted between two states, the second later. -/
def newSpiEvents (s t : State) : List Event := t.spi.trace.drop s.spi.trace.length

/-- Whether an event is a diagnostic. -/
def isDiag : Event → Bool
  | .diag _ _ => true
  | _ => false

/-- Whether an event is a chip-select level. -/
def isCsLevel : Event → Bool
  | .csLevel _ _ => true
  | _ => false

/-- Whether an event is a change of the IRQ line of a block. -/
def isIrqEdge (b : Block) : Event → Bool
  | .irqEdge b' _ => decide (b' = b)
  | _ => false

/-- Whether an event is a peer word swap. -/
def isExchange : Event → Bool
  | .exchange _ _ _ => true
  | _ => false

/-- The block an instruction is a call of (field B of its descriptor). -/
def blockOf (i : Instr) : Block := (encodeFields i).b

/-- The rows of spec/opcode_table.json that the spec refuses (30_encoding.md R107 groups 2 and 4). -/
def isRefusalRow : Instr → Bool
  | .reservedK3 _ _ _ _ | .reservedZ0 _ _ _ _ _ | .reservedZ1 _ _ _ _ _ | .reservedZ2 _ _ _ _ | .reservedS3 _ _ _
  | .subword _ _ _ _ | .misalignedB0 _ _ _ | .misalignedB1 _ _ _ | .evReserved _ _ _ => true
  | _ => false

end Sys2Proof.Machine
end

