-- ==== Sys2Proof/Certificates/Slice0/Obligations.lean ====
section
/-! DEFINITION. The statements about the machine, in the order of OBLIGATIONS.json. The conclusions say the whole next state, so
each is its own frame: what is not named is as it was. The core has no memory (20_memory.md, opening), so no statement speaks
of one; the FIFOs' bytes are fields of the LPSPI. -/

open Sys2Proof Sys2Proof.Machine

/-! ## Reset and the invariants of a quiescent point -/

/-- 70_reset_and_hazards.md R260 and the reset tables of 10_state.md R31, R41, R59, R61, on the values the source gives: STAT,
CTRL, the cell, SR, FSR, RSR, the FIFOs, the lines, and no event. -/
def Obligations.CreatedBlocksHoldTheirResetValues : Prop :=
  ∀ (c : Config) (hz : Nat),
    (State.created c hz).uart.stat = 0x00800000 ∧ (State.created c hz).uart.ctrl = 0
      ∧ (State.created c hz).uart.baud = c.baudReset ∧ (State.created c hz).uart.rxCell = 0
      ∧ (State.created c hz).uart.irq = false ∧ (State.created c hz).uart.trace = []
      ∧ (State.created c hz).spi.sr = 0x00000001 ∧ (State.created c hz).spi.rsr = 0x00000002
      ∧ (State.created c hz).spi.fsr = 0 ∧ (State.created c hz).spi.tx = [] ∧ (State.created c hz).spi.rx = []
      ∧ (State.created c hz).spi.cs = List.replicate c.numCs true
      ∧ (State.created c hz).spi.irq = false ∧ (State.created c hz).spi.trace = []

/-- A machine with legal parameters is at a quiescent point when it is created, the reset machine among them
(10_state.md R29, R30, R60 at the reset values). -/
def Obligations.CreationIsQuiescent : Prop :=
  (∀ (c : Config) (hz : Nat), c.legal = true → (State.created c hz).Quiescent) ∧ State.reset.Quiescent

/-- The invariants of 10_state.md R29, R30, R44 and R60 are kept by every step, from every state that meets them, and the
parameters stay as they are. -/
def Obligations.EveryStepKeepsQuiescence : Prop :=
  ∀ s t : State, s.Quiescent → step s = .next t → t.Quiescent ∧ t.config = s.config

/-- 43_lpspi_transfer.md R205 and R206 from ANY state, quiescent or not: after every LPSPI call the derived registers are what
the FIFOs say, and no SR bit but the three derived ones has been set. The FSR positions are the spec's decision D19. -/
def Obligations.StatusFollowsTheFifosAfterEveryLpspiCall : Prop :=
  ∀ (i : Instr) (s t : State), blockOf i = .spi → exec i s = .next t →
    t.spi.fsr = (BitVec.ofNat 32 (used t.spi.rx / 4) <<< 16) ||| BitVec.ofNat 32 (used t.spi.tx / 4)
      ∧ t.spi.tdf = decide (4 ≤ free s.config.txCap t.spi.tx)
      ∧ t.spi.rdf = decide (4 ≤ used t.spi.rx)
      ∧ t.spi.mbf = decide (used t.spi.tx ≠ 0)
      ∧ t.spi.rsr = (if used t.spi.rx = 0 then 0x00000002 else 0)
      ∧ t.spi.sr &&& ~~~0x01000003#32 &&& ~~~s.spi.sr = 0

/-! ## The interrupt lines -/

/-- 41_lpuart.md R142: the LPUART level, for every state, is the two-term OR. -/
def Obligations.UartLevelIsTheTwoTermOr : Prop :=
  ∀ u : Uart, u.level = ((u.rie && u.rdrf) || (u.tie && u.tdre))

/-- 43_lpspi_transfer.md R220: the LPSPI level, for every state, reads IER bits 0 and 1 and TDF and RDF, and nothing else. -/
def Obligations.SpiLevelReadsTdfAndRdfOnly : Prop :=
  ∀ p : Spi, p.level = ((p.ier.getLsbD 0 && p.tdf) || (p.ier.getLsbD 1 && p.rdf))

/-- 40_regbank_irq.md R122 and R124 over a whole call: each block emits one IrqEdge, with its new level, exactly when its
latched level has changed over the call, and none when it has not. -/
def Obligations.AnIrqEdgeExactlyWhenTheLineChanges : Prop :=
  ∀ (i : Instr) (s t : State), s.Quiescent → exec i s = .next t →
    (newUartEvents s t).filter (isIrqEdge .uart) = edge .uart s.uart.irq t.uart.irq
      ∧ (newSpiEvents s t).filter (isIrqEdge .spi) = edge .spi s.spi.irq t.spi.irq
      ∧ t.uart.irq = t.uart.level ∧ t.spi.irq = t.spi.level

/-- 41_lpuart.md R145: with TIE set at a quiescent point the line is high, and a call that lowers it is a CTRL write that clears
TIE or a reset of the block. -/
def Obligations.TieHoldsTheUartLineHigh : Prop :=
  ∀ s : State, s.Quiescent → s.uart.tie = true →
    s.uart.irq = true
      ∧ ∀ (i : Instr) (t : State), exec i s = .next t → t.uart.irq = false →
          (∃ v : Word, i = .wrUartCtrl v ∧ v.getLsbD 23 = false) ∨ i = .rstUart

/-! ## The LPUART -/

/-- 41_lpuart.md R137, R138, R140: reads of BAUD, STAT and CTRL return the register and change nothing; STAT is one of two
words; BAUD and CTRL read back what was last written. -/
def Obligations.UartStoredRegistersReadBack : Prop :=
  ∀ (s : State) (x : Word), s.uart.Quiescent →
    decode ⟨0x10000010, x⟩ = .rdUartBaud ∧ exec .rdUartBaud s = .next { s with result := some s.uart.baud }
      ∧ decode ⟨0x10000014, x⟩ = .rdUartStat ∧ exec .rdUartStat s = .next { s with result := some s.uart.stat }
      ∧ (s.uart.stat = 0x00800000 ∨ s.uart.stat = 0x00A00000)
      ∧ decode ⟨0x10000018, x⟩ = .rdUartCtrl ∧ exec .rdUartCtrl s = .next { s with result := some s.uart.ctrl }
      ∧ (∀ t, exec (.wrUartBaud x) s = .next t → exec .rdUartBaud t = .next { t with result := some x })
      ∧ (∀ t, exec (.wrUartCtrl x) s = .next t → exec .rdUartCtrl t = .next { t with result := some x })

/-- 41_lpuart.md R139: a DATA read returns the cell, leaves RDRF clear and the cell as it was, emits RxRoom and then the edge of a
line that only the receive term held high. That it does so with RDRF = 0 as well is the spec's decision D10. -/
def Obligations.UartDataReadReturnsTheCellAndClearsRdrf : Prop :=
  ∀ (s : State) (x : Word), s.uart.Quiescent →
    decode ⟨0x1000001C, x⟩ = .rdUartData
      ∧ exec .rdUartData s = .next { s with
          uart := { s.uart with
            stat := 0x00800000
            irq := s.uart.tie
            trace := s.uart.trace ++ [.rxRoom] ++ edge .uart s.uart.irq s.uart.tie }
          result := some (BitVec.ofNat 32 s.uart.rxCell.toNat) }

/-- 41_lpuart.md R132 and R133: a BAUD write stores V whole and reports the floor of CLOCK_HZ by (OSR + 1) * SBR, and 0 for a
divisor of 0. Floor division and the sampling of the clock are the spec's decision D14. -/
def Obligations.UartBaudWriteStoresAndReportsTheRate : Prop :=
  ∀ (s : State) (v : Word), s.uart.Quiescent →
    decode ⟨0x30000010, v⟩ = .wrUartBaud v
      ∧ ∃ rate : Nat,
          exec (.wrUartBaud v) s = .next { s with
            uart := { s.uart with baud := v, trace := s.uart.trace ++ [.setParams rate] }
            result := none }
          ∧ (v.toNat % 8192 = 0 → rate = 0)
          ∧ (v.toNat % 8192 ≠ 0 →
              rate * ((v.toNat / 2 ^ 24 % 32 + 1) * (v.toNat % 8192)) ≤ s.clockHz
                ∧ s.clockHz < (rate + 1) * ((v.toNat / 2 ^ 24 % 32 + 1) * (v.toNat % 8192)))

/-- 41_lpuart.md R134: a STAT write clears the bits outside TDRE and RDRF that V has 1 in and re-asserts TDRE, in any state; at a
quiescent point it changes nothing. The W1C subset is the spec's decision D11. -/
def Obligations.UartStatWriteClearsNothingSoftwareCanSee : Prop :=
  ∀ (s : State) (v : Word),
    decode ⟨0x30000014, v⟩ = .wrUartStat v
      ∧ (∃ t, exec (.wrUartStat v) s = .next t
          ∧ t.uart.stat = (s.uart.stat &&& ~~~(v &&& 0xFF5FFFFF)) ||| 0x00800000)
      ∧ (s.uart.Quiescent → exec (.wrUartStat v) s = .next { s with result := none })

/-- 41_lpuart.md R135: a CTRL write stores every bit and the line follows the new enables at once; that RE set emits nothing of its
own is the spec's decision D13. -/
def Obligations.UartCtrlWriteStoresAndMovesTheLine : Prop :=
  ∀ (s : State) (v : Word), s.uart.Quiescent →
    decode ⟨0x30000018, v⟩ = .wrUartCtrl v
      ∧ exec (.wrUartCtrl v) s = .next { s with
          uart := { s.uart with
            ctrl := v
            irq := (v.getLsbD 21 && s.uart.rdrf) || v.getLsbD 23
            trace := s.uart.trace ++ edge .uart s.uart.irq ((v.getLsbD 21 && s.uart.rdrf) || v.getLsbD 23) }
          result := none }

/-- 41_lpuart.md R136: with TE a DATA write sends V[7:0] and changes nothing else; without TE it does nothing at all (the spec's
decision D12). -/
def Obligations.UartDataWriteSendsOneByteWhenEnabled : Prop :=
  ∀ (s : State) (v : Word), s.uart.Quiescent →
    decode ⟨0x3000001C, v⟩ = .wrUartData v
      ∧ exec (.wrUartData v) s = .next { s with
          uart := { s.uart with
            trace := s.uart.trace ++ (if s.uart.te then [.txByte (BitVec.ofNat 8 v.toNat)] else []) }
          result := none }

/-- 41_lpuart.md R141: a byte is taken exactly when RE is set and the cell is empty (can_receive, R143), sets RDRF, and raises the
line if RIE is set; otherwise it is dropped without a trace (the spec's decision D13). -/
def Obligations.UartByteIsTakenOnlyWhenThereIsRoom : Prop :=
  ∀ (s : State) (b : Byte), s.uart.Quiescent →
    decode ⟨0x40000001, BitVec.ofNat 32 b.toNat⟩ = .evUartRxbyte b
      ∧ (s.uart.canReceive = true ↔ s.uart.re = true ∧ s.uart.rdrf = false)
      ∧ (s.uart.canReceive = true →
          exec (.evUartRxbyte b) s = .next { s with
            uart := { s.uart with
              rxCell := b
              stat := 0x00A00000
              irq := s.uart.rie || s.uart.tie
              trace := s.uart.trace ++ edge .uart s.uart.irq (s.uart.rie || s.uart.tie) }
            result := none })
      ∧ (s.uart.canReceive = false → exec (.evUartRxbyte b) s = .next { s with result := none })

/-- 41_lpuart.md R131 and 70_reset_and_hazards.md R264, from any state: every register at its reset value, and one event at most,
the falling edge. That no SetParams is emitted is the spec's decision D14. -/
def Obligations.UartResetRestoresEveryField : Prop :=
  ∀ (s : State) (x : Word),
    decode ⟨0x40000000, x⟩ = .rstUart
      ∧ exec .rstUart s = .next { s with
          uart := { (Uart.created s.config) with trace := s.uart.trace ++ edge .uart s.uart.irq false }
          result := none }

/-- 10_state.md R28 as a rule of the whole machine: RDRF rises only with a byte taken, which the cell then holds; it falls only
with a DATA read, which returns the cell, or a reset; and the cell changes only with a byte taken or a reset. That no byte is taken
with RE clear is the spec's decision D13 (conflict C11, log 17); that a DATA read keeps the cell is D10 (log 16). -/
def Obligations.RdrfIsTheFullnessOfTheCell : Prop :=
  ∀ (i : Instr) (s t : State), s.Quiescent → exec i s = .next t →
    (s.uart.rdrf = false → t.uart.rdrf = true →
        ∃ b, i = .evUartRxbyte b ∧ s.uart.re = true ∧ t.uart.rxCell = b)
      ∧ (s.uart.rdrf = true → t.uart.rdrf = false →
          (i = .rdUartData ∧ t.result = some (BitVec.ofNat 32 s.uart.rxCell.toNat)) ∨ i = .rstUart)
      ∧ (t.uart.rxCell ≠ s.uart.rxCell →
          (∃ b, i = .evUartRxbyte b ∧ s.uart.re = true ∧ s.uart.rdrf = false) ∨ i = .rstUart)

/-- The echo of 95_test_vectors.md 1.3 for every byte: a byte taken is the one the next DATA read returns, with RDRF set between
and clear after (41_lpuart.md R139, R141). -/
def Obligations.UartReturnsTheByteItTook : Prop :=
  ∀ (s : State) (b : Byte), s.Quiescent → s.uart.canReceive = true →
    ∃ t u : State, exec (.evUartRxbyte b) s = .next t ∧ t.uart.rdrf = true ∧ t.uart.canReceive = false
      ∧ exec .rdUartData t = .next u ∧ u.result = some (BitVec.ofNat 32 b.toNat) ∧ u.uart.rdrf = false

/-- 30_encoding.md R94: the bounds of the BAUD fields and of the divisor. -/
def Obligations.BaudDivisorIsBounded : Prop :=
  ∀ baud : Word, osrOf baud ≤ 31 ∧ sbrOf baud ≤ 8191 ∧ (osrOf baud + 1) * sbrOf baud ≤ 262112

/-! ## The LPSPI registers -/

/-- 42_lpspi_registers.md R167, R169, R171, R185, R188: reads of CR, SR, IER, TCR and RSR return the register and change nothing;
CR bit 1 reads 0; SR and RSR read as the FIFOs say. -/
def Obligations.SpiStoredRegistersRead : Prop :=
  ∀ (s : State) (x : Word), s.Quiescent →
    decode ⟨0x90000010, x⟩ = .rdSpiCr ∧ exec .rdSpiCr s = .next { s with result := some s.spi.cr }
      ∧ s.spi.cr.getLsbD 1 = false
      ∧ decode ⟨0x90000014, x⟩ = .rdSpiSr
      ∧ exec .rdSpiSr s = .next { s with result := some (statusWord s.config s.spi.tx s.spi.rx) }
      ∧ decode ⟨0x90000018, x⟩ = .rdSpiIer ∧ exec .rdSpiIer s = .next { s with result := some s.spi.ier }
      ∧ decode ⟨0x90000060, x⟩ = .rdSpiTcr ∧ exec .rdSpiTcr s = .next { s with result := some s.spi.tcr }
      ∧ decode ⟨0x90000070, x⟩ = .rdSpiRsr
      ∧ exec .rdSpiRsr s = .next { s with result := some (if s.spi.rx = [] then 0x00000002 else 0) }

/-- 42_lpspi_registers.md R162, R164, R173 to R183 and 40_regbank_irq.md R117: the other reads without side effects. VERID and PARAM
are parameters (D8), the FSR positions are D19, and the 0 of TDR is D6. -/
def Obligations.SpiConstantAndStorageRegistersRead : Prop :=
  ∀ (s : State) (x : Word), s.Quiescent →
    decode ⟨0x90000000, x⟩ = .rdSpiVerid ∧ exec .rdSpiVerid s = .next { s with result := some s.config.veridValue }
      ∧ decode ⟨0x90000004, x⟩ = .rdSpiParam ∧ exec .rdSpiParam s = .next { s with result := some s.config.paramValue }
      ∧ decode ⟨0x9000001C, x⟩ = .rdSpiDer ∧ exec .rdSpiDer s = .next { s with result := some s.spi.der }
      ∧ decode ⟨0x90000020, x⟩ = .rdSpiCfgr0 ∧ exec .rdSpiCfgr0 s = .next { s with result := some s.spi.cfgr0 }
      ∧ decode ⟨0x90000024, x⟩ = .rdSpiCfgr1 ∧ exec .rdSpiCfgr1 s = .next { s with result := some s.spi.cfgr1 }
      ∧ decode ⟨0x90000040, x⟩ = .rdSpiCcr ∧ exec .rdSpiCcr s = .next { s with result := some s.spi.ccr }
      ∧ decode ⟨0x90000058, x⟩ = .rdSpiFcr ∧ exec .rdSpiFcr s = .next { s with result := some s.spi.fcr }
      ∧ decode ⟨0x9000005C, x⟩ = .rdSpiFsr
      ∧ exec .rdSpiFsr s = .next { s with
          result := some (BitVec.ofNat 32 (65536 * (s.spi.rx.length / 4) + s.spi.tx.length / 4)) }
      ∧ decode ⟨0x90000064, x⟩ = .rdSpiTdr ∧ exec .rdSpiTdr s = .next { s with result := some 0 }

/-- 42_lpspi_registers.md R170: an IER write stores every bit, and the line follows bits 0 and 1 of it. -/
def Obligations.SpiIerWriteStoresAndMovesTheLine : Prop :=
  ∀ (s : State) (v : Word), s.Quiescent →
    decode ⟨0xB0000018, v⟩ = .wrSpiIer v
      ∧ exec (.wrSpiIer v) s = .next { s with
          spi := { s.spi with
            ier := v
            irq := (v.getLsbD 0 && s.spi.tdf) || (v.getLsbD 1 && s.spi.rdf)
            trace := s.spi.trace
              ++ edge .spi s.spi.irq ((v.getLsbD 0 && s.spi.tdf) || (v.getLsbD 1 && s.spi.rdf)) }
          result := none }

/-- 42_lpspi_registers.md R180: an FCR write stores any value and nothing else changes, TDF and RDF among it. -/
def Obligations.SpiFcrWriteHasNoOtherEffect : Prop :=
  ∀ (s : State) (v : Word), s.Quiescent →
    decode ⟨0xB0000058, v⟩ = .wrSpiFcr v
      ∧ exec (.wrSpiFcr v) s = .next { s with spi := { s.spi with fcr := v }, result := none }
      ∧ (∀ t, exec (.wrSpiFcr v) s = .next t → exec .rdSpiFcr t = .next { t with result := some v })

/-- 42_lpspi_registers.md R172, R174, R176, R178: DER, CFGR0, CFGR1 and CCR store any value and nothing else changes (storage
only: the spec's decisions D27 and D30). -/
def Obligations.SpiStorageWritesHaveNoOtherEffect : Prop :=
  ∀ (s : State) (v : Word), s.Quiescent →
    exec (.wrSpiDer v) s = .next { s with spi := { s.spi with der := v }, result := none }
      ∧ exec (.wrSpiCfgr0 v) s = .next { s with spi := { s.spi with cfgr0 := v }, result := none }
      ∧ exec (.wrSpiCfgr1 v) s = .next { s with spi := { s.spi with cfgr1 := v }, result := none }
      ∧ exec (.wrSpiCcr v) s = .next { s with spi := { s.spi with ccr := v }, result := none }

/-- 42_lpspi_registers.md R163, R165, R182, R187, R189: a write to VERID, PARAM, FSR, RSR or RDR is dropped, V with it, and emits
ReadOnlyWrite with its offset. -/
def Obligations.SpiReadOnlyWritesAreDropped : Prop :=
  ∀ (s : State) (v : Word), s.Quiescent →
    let dropped (off : Nat) : State :=
      { s with spi := { s.spi with trace := s.spi.trace ++ [.diag .readOnlyWrite off] }, result := none }
    decode ⟨0xB0000000, v⟩ = .wrSpiVerid v ∧ exec (.wrSpiVerid v) s = .next (dropped 0x00)
      ∧ decode ⟨0xB0000004, v⟩ = .wrSpiParam v ∧ exec (.wrSpiParam v) s = .next (dropped 0x04)
      ∧ decode ⟨0xB000005C, v⟩ = .wrSpiFsr v ∧ exec (.wrSpiFsr v) s = .next (dropped 0x5C)
      ∧ decode ⟨0xB0000070, v⟩ = .wrSpiRsr v ∧ exec (.wrSpiRsr v) s = .next (dropped 0x70)
      ∧ decode ⟨0xB0000074, v⟩ = .wrSpiRdr v ∧ exec (.wrSpiRdr v) s = .next (dropped 0x74)

/-- 42_lpspi_registers.md R168: an SR write clears the bits V has 1 in, in any state, but the derived bits are recomputed at once,
so that at a quiescent point it changes nothing (the W1C subset is the spec's decision D11). -/
def Obligations.SpiSrWriteIsWriteOneToClear : Prop :=
  ∀ (s : State) (v : Word),
    decode ⟨0xB0000014, v⟩ = .wrSpiSr v
      ∧ (∃ t, exec (.wrSpiSr v) s = .next t
          ∧ t.spi.sr = (s.spi.sr &&& ~~~v &&& ~~~0x01000003#32) ||| statusWord s.config s.spi.tx s.spi.rx
          ∧ t.spi.tx = s.spi.tx ∧ t.spi.rx = s.spi.rx)
      ∧ (s.Quiescent → exec (.wrSpiSr v) s = .next { s with result := none })

/-- 42_lpspi_registers.md R166: RST resets the block and applies no other bit; RSTF without RST empties both FIFOs, sends nothing,
moves no line, and V is stored whole (the spec's decision D15); any other CR write only stores V and starts no burst (D16). -/
def Obligations.SpiCrWriteResetsClearsOrStores : Prop :=
  ∀ (s : State) (v : Word), s.Quiescent →
    decode ⟨0xB0000010, v⟩ = .wrSpiCr v
      ∧ (v.getLsbD 1 = true →
          exec (.wrSpiCr v) s = .next { s with
            spi := { (Spi.created s.config) with
              peerAnswers := s.spi.peerAnswers
              trace := s.spi.trace ++ edge .spi s.spi.irq false }
            result := none })
      ∧ (v.getLsbD 1 = false → v.getLsbD 9 = true →
          exec (.wrSpiCr v) s = .next { s with
            spi := ({ s.spi with tx := [], rx := [], cr := v } : Spi).settled s.config
            result := none })
      ∧ (v.getLsbD 1 = false → v.getLsbD 9 = false →
          exec (.wrSpiCr v) s = .next { s with spi := { s.spi with cr := v }, result := none })

/-- 42_lpspi_registers.md R160, from any state: every register, FIFO, line and level at its reset value; a CsLevel for each line
that was low, in order, then the falling edge. The zeros are the spec's decision D9. The host's answers are its own. -/
def Obligations.SpiResetRestoresEveryField : Prop :=
  ∀ (s : State) (x : Word), s.spi.cs.length = s.config.numCs → s.config.legal = true →
    decode ⟨0xC0000000, x⟩ = .rstSpi
      ∧ exec .rstSpi s = .next { s with
          spi := { (Spi.created s.config) with
            peerAnswers := s.spi.peerAnswers
            trace := s.spi.trace
              ++ ((List.range s.config.numCs).filter (fun i => !(s.spi.cs.getD i true))).map (fun i => .csLevel i true)
              ++ edge .spi s.spi.irq false }
          result := none }

/-- 70_reset_and_hazards.md R265: after a reset of both blocks from any state with legal parameters, a read of every mapped register
returns its reset value, and no read changes state but for the RxRoom of a DATA read. (Zeros not in the source: D9.) -/
def Obligations.ReadsAfterResetGiveTheDocumentedConstants : Prop :=
  ∀ s t u : State, s.config.legal = true → s.spi.cs.length = s.config.numCs →
    exec .rstUart s = .next t → exec .rstSpi t = .next u →
    exec .rdUartBaud u = .next { u with result := some s.config.baudReset }
      ∧ exec .rdUartStat u = .next { u with result := some 0x00800000 }
      ∧ exec .rdUartCtrl u = .next { u with result := some 0 }
      ∧ exec .rdUartData u = .next { u with
          uart := { u.uart with trace := u.uart.trace ++ [.rxRoom] }, result := some 0 }
      ∧ exec .rdSpiVerid u = .next { u with result := some s.config.veridValue }
      ∧ exec .rdSpiParam u = .next { u with result := some s.config.paramValue }
      ∧ exec .rdSpiSr u = .next { u with result := some 1 }
      ∧ exec .rdSpiRsr u = .next { u with result := some 2 }
      ∧ (∀ i ∈ [Instr.rdSpiCr, .rdSpiIer, .rdSpiDer, .rdSpiCfgr0, .rdSpiCfgr1, .rdSpiCcr, .rdSpiFcr, .rdSpiFsr,
            .rdSpiTcr, .rdSpiTdr, .rdSpiRdr],
          exec i u = .next { u with result := some 0 })

/-- 20_memory.md R79: a second write of the same value to a plain RW register, to STAT or to SR changes nothing. -/
def Obligations.PlainWritesAreIdempotent : Prop :=
  ∀ (s t : State) (v : Word), s.Quiescent →
    ∀ i ∈ [Instr.wrUartCtrl v, .wrUartStat v, .wrSpiSr v, .wrSpiIer v, .wrSpiDer v, .wrSpiCfgr0 v, .wrSpiCfgr1 v,
        .wrSpiCcr v, .wrSpiFcr v],
      exec i s = .next t → exec i t = .next t

/-- 42_lpspi_registers.md R191: at a quiescent point the module state is read off MEN and tx, and a reset leads to Disabled with
tx empty. -/
def Obligations.ModuleStatesAreReadOffMenAndTx : Prop :=
  ∀ s : State, s.Quiescent →
    (s.spi.moduleState = .disabled ↔ s.spi.men = false ∧ s.spi.tx = [])
      ∧ (s.spi.moduleState = .disabledStalled ↔ s.spi.men = false ∧ s.spi.tx ≠ [])
      ∧ (s.spi.moduleState = .idle ↔ s.spi.men = true ∧ s.spi.tx = [])
      ∧ (s.spi.moduleState = .busy ↔ s.spi.men = true ∧ s.spi.tx ≠ [])
      ∧ (∀ (v : Word) (t : State), v.getLsbD 1 = true → exec (.wrSpiCr v) s = .next t →
          t.spi.moduleState = .disabled ∧ t.spi.tx = [])

/-! ## The LPSPI transfer engine -/

/-- 43_lpspi_transfer.md R201 and R202: a word pushed comes back whole when its turn comes, oldest first, and a push adds four
bytes, the least significant first (the push order is the spec's decision D18). -/
def Obligations.FifoReturnsWordsInOrder : Prop :=
  ∀ (q : List Byte) (w : Word) (ws : List Word),
    popWord (pushWord [] w ++ q) = some (w, q)
      ∧ used (pushWord q w) = used q + 4
      ∧ (pushWord q w).drop (used q)
          = [BitVec.ofNat 8 w.toNat, BitVec.ofNat 8 (w.toNat / 2 ^ 8), BitVec.ofNat 8 (w.toNat / 2 ^ 16),
              BitVec.ofNat 8 (w.toNat / 2 ^ 24)]
      ∧ wordsOf (fifoOfWords ws) = ws
      ∧ (popWord q = none ↔ used q < 4)

/-- 43_lpspi_transfer.md R210 and R212 to R215: what Burst makes of an LPSPI whose lines are high, for every peer: the checks in
their order, one line low and high once, exactly the words R213 counts, in order, with the answers in their places. -/
def Obligations.BurstMovesTheWordsItCan : Prop :=
  ∀ (c : Config) (off : Nat) (p : Spi), c.legal = true → p.Quiescent c →
    ∃ q : Spi, p.BurstOutcome c off q
      ∧ p.burst c off = (if p.men = false ∨ used p.tx < 4 ∨ free c.rxCap p.rx < 4 ∨ c.numCs ≤ pcsOf p.tcr then q
          else q.settled c)

/-- 42_lpspi_registers.md R184: a TCR write stores V whole and, with MEN set, runs a burst with the new PCS; with MEN clear nothing
else happens. -/
def Obligations.SpiTcrWriteStoresThenBursts : Prop :=
  ∀ (s : State) (v : Word), s.Quiescent →
    decode ⟨0xB0000060, v⟩ = .wrSpiTcr v
      ∧ (s.spi.men = false →
          exec (.wrSpiTcr v) s = .next { s with spi := { s.spi with tcr := v }, result := none })
      ∧ ∃ q : Spi, ({ s.spi with tcr := v } : Spi).BurstOutcome s.config 0x60 q
          ∧ exec (.wrSpiTcr v) s = .next { s with spi := q.settled s.config, result := none }

/-- 42_lpspi_registers.md R186: a TDR write with MEN clear, or with less than a word free in tx, is rejected with its diagnostic and
nothing else; otherwise V is queued and a burst run. That the word of a burst with a bad PCS stays queued is decision D17. -/
def Obligations.SpiTdrWriteQueuesThenBursts : Prop :=
  ∀ (s : State) (v : Word), s.Quiescent →
    decode ⟨0xB0000064, v⟩ = .wrSpiTdr v
      ∧ (s.spi.men = false →
          exec (.wrSpiTdr v) s = .next { s with
            spi := { s.spi with trace := s.spi.trace ++ [.diag .moduleDisabled 0x64] }, result := none })
      ∧ (s.spi.men = true → free s.config.txCap s.spi.tx < 4 →
          exec (.wrSpiTdr v) s = .next { s with
            spi := { s.spi with trace := s.spi.trace ++ [.diag .txFifoFull 0x64] }, result := none })
      ∧ (s.spi.men = true → 4 ≤ free s.config.txCap s.spi.tx →
          ∃ q : Spi, ({ s.spi with tx := s.spi.tx ++ fifoOfWords [v], sr := setBit s.spi.sr 24 true } : Spi).BurstOutcome
              s.config 0x64 q
            ∧ exec (.wrSpiTdr v) s = .next { s with spi := q.settled s.config, result := none })

/-- 42_lpspi_registers.md R190: an RDR read with no word in rx returns 0 and does nothing; otherwise it returns the oldest word,
keeps it in the mirror, and runs a burst, which with MEN clear does nothing (the spec's decision D16). -/
def Obligations.SpiRdrReadPopsThenBursts : Prop :=
  ∀ (s : State) (x : Word), s.Quiescent →
    decode ⟨0x90000074, x⟩ = .rdSpiRdr
      ∧ (s.spi.rx = [] → exec .rdSpiRdr s = .next { s with result := some 0 })
      ∧ (∀ (w : Word) (ws : List Word), s.spi.rx = fifoOfWords (w :: ws) →
          ∃ q : Spi, ({ s.spi with rx := fifoOfWords ws, rdr := w } : Spi).BurstOutcome s.config 0x74 q
            ∧ exec .rdSpiRdr s = .next { s with spi := q.settled s.config, result := some w })

/-- 42_lpspi_registers.md R186 and R190, 43_lpspi_transfer.md R214, end to end and for every answer: the word the peer answers a
TDR write with is the word the next RDR read of an otherwise empty rx returns. -/
def Obligations.TheAnswerToAWordSentIsTheWordRead : Prop :=
  ∀ (s : State) (v r : Word) (rest : List Word), s.Quiescent → s.spi.men = true → s.spi.tx = [] → s.spi.rx = [] →
    pcsOf s.spi.tcr < s.config.numCs → s.spi.peerAnswers = r :: rest →
    ∃ t u : State, exec (.wrSpiTdr v) s = .next t
      ∧ newSpiEvents s t = [.csLevel (pcsOf s.spi.tcr) false, .exchange (pcsOf s.spi.tcr) v r,
          .csLevel (pcsOf s.spi.tcr) true] ++ edge .spi s.spi.irq t.spi.irq
      ∧ t.spi.tx = [] ∧ t.spi.peerAnswers = rest
      ∧ exec .rdSpiRdr t = .next u ∧ u.result = some r ∧ u.spi.rdr = r ∧ u.spi.rx = []

/-- 70_reset_and_hazards.md R272 in general: with rx full and room in tx a TDR write queues its word, exchanges nothing and emits no
event but an edge. -/
def Obligations.BackPressureQueuesTheWord : Prop :=
  ∀ (s : State) (v : Word), s.Quiescent → s.spi.men = true → free s.config.rxCap s.spi.rx < 4 →
    4 ≤ free s.config.txCap s.spi.tx →
    exec (.wrSpiTdr v) s = .next { s with
      spi := ({ s.spi with tx := s.spi.tx ++ fifoOfWords [v] } : Spi).settled s.config, result := none }

/-- 43_lpspi_transfer.md R211: a word is exchanged only in a TDR write, a TCR write or an RDR read, with MEN set before the call
(that MEN gates all three is the spec's decision D16). -/
def Obligations.OnlyThreeCallsExchangeWords : Prop :=
  ∀ (i : Instr) (s t : State), s.Quiescent → exec i s = .next t → (newSpiEvents s t).any isExchange = true →
    s.spi.men = true ∧ ((∃ v, i = .wrSpiTdr v) ∨ (∃ v, i = .wrSpiTcr v) ∨ i = .rdSpiRdr)

/-- 43_lpspi_transfer.md R212: in one call either no chip-select line moves, or the line PCS names goes low and then high, once, and
no other line moves. -/
def Obligations.ALineMovesLowThenHighOnceOrNotAtAll : Prop :=
  ∀ (i : Instr) (s t : State), s.Quiescent → exec i s = .next t →
    (newSpiEvents s t).filter isCsLevel = []
      ∨ (pcsOf t.spi.tcr < s.config.numCs
          ∧ (newSpiEvents s t).filter isCsLevel = [.csLevel (pcsOf t.spi.tcr) false, .csLevel (pcsOf t.spi.tcr) true])

/-! ## Dispatch, errors and the whole machine -/

/-- 40_regbank_irq.md R114: an access at an unmapped aligned offset inside the region emits its diagnostic, returns 0 if it is a read,
discards V if it is a write, and changes nothing else, in either block. -/
def Obligations.UnmappedOffsetsReadZeroAndDropWrites : Prop :=
  ∀ (s : State) (o : Offset) (v : Word), s.Quiescent → o.toNat % 4 = 0 →
    (isMapped .uart o.toNat = false → o.toNat < s.config.uartRegionBytes →
        decode ⟨descriptorOf ⟨.uart, 0, 2, 0, o⟩, v⟩ = .rdUartUnmapped o
          ∧ exec (.rdUartUnmapped o) s = .next { s with
              uart := { s.uart with trace := s.uart.trace ++ [.diag .unimplementedOffsetRead o.toNat] }, result := some 0 }
          ∧ decode ⟨descriptorOf ⟨.uart, 1, 2, 0, o⟩, v⟩ = .wrUartUnmapped o v
          ∧ exec (.wrUartUnmapped o v) s = .next { s with
              uart := { s.uart with trace := s.uart.trace ++ [.diag .unimplementedOffsetWrite o.toNat] }, result := none })
      ∧ (isMapped .spi o.toNat = false → o.toNat < s.config.spiRegionBytes →
        decode ⟨descriptorOf ⟨.spi, 0, 2, 0, o⟩, v⟩ = .rdSpiUnmapped o
          ∧ exec (.rdSpiUnmapped o) s = .next { s with
              spi := { s.spi with trace := s.spi.trace ++ [.diag .unimplementedOffsetRead o.toNat] }, result := some 0 }
          ∧ decode ⟨descriptorOf ⟨.spi, 1, 2, 0, o⟩, v⟩ = .wrSpiUnmapped o v
          ∧ exec (.wrSpiUnmapped o v) s = .next { s with
              spi := { s.spi with trace := s.spi.trace ++ [.diag .unimplementedOffsetWrite o.toNat] }, result := none })

/-- 40_regbank_irq.md R115: the same at or beyond the region size, with its own diagnostics (the read result is decision D2). -/
def Obligations.OutOfRangeOffsetsReadZeroAndDropWrites : Prop :=
  ∀ (s : State) (o : Offset) (v : Word), s.Quiescent → o.toNat % 4 = 0 →
    (s.config.uartRegionBytes ≤ o.toNat →
        decode ⟨descriptorOf ⟨.uart, 0, 2, 0, o⟩, v⟩ = .rdUartUnmapped o
          ∧ exec (.rdUartUnmapped o) s = .next { s with
              uart := { s.uart with trace := s.uart.trace ++ [.diag .outOfRangeOffsetRead o.toNat] }, result := some 0 }
          ∧ decode ⟨descriptorOf ⟨.uart, 1, 2, 0, o⟩, v⟩ = .wrUartUnmapped o v
          ∧ exec (.wrUartUnmapped o v) s = .next { s with
              uart := { s.uart with trace := s.uart.trace ++ [.diag .outOfRangeOffsetWrite o.toNat] }, result := none })
      ∧ (s.config.spiRegionBytes ≤ o.toNat →
        decode ⟨descriptorOf ⟨.spi, 0, 2, 0, o⟩, v⟩ = .rdSpiUnmapped o
          ∧ exec (.rdSpiUnmapped o) s = .next { s with
              spi := { s.spi with trace := s.spi.trace ++ [.diag .outOfRangeOffsetRead o.toNat] }, result := some 0 }
          ∧ decode ⟨descriptorOf ⟨.spi, 1, 2, 0, o⟩, v⟩ = .wrSpiUnmapped o v
          ∧ exec (.wrSpiUnmapped o v) s = .next { s with
              spi := { s.spi with trace := s.spi.trace ++ [.diag .outOfRangeOffsetWrite o.toNat] }, result := none })

/-- The nine refusal rows stop, in every state (30_encoding.md R91, R92, R101; 20_memory.md R73, R74; decisions D1 and D3). -/
def Obligations.RefusalRowsAreRefusedInEveryState : Prop :=
  ∀ (s : State) (b : Block) (k : Kind) (d : Dir) (n : SubSize) (c z2 : BitVec 2) (z1 : BitVec 1) (z : BitVec 3) (o : Offset),
    exec (.reservedK3 b c z o) s = .refused .reservedDescriptor
      ∧ exec (.reservedZ0 b k c z2 o) s = .refused .reservedDescriptor
      ∧ exec (.reservedZ1 b k c z1 o) s = .refused .reservedDescriptor
      ∧ exec (.reservedZ2 b k c o) s = .refused .reservedDescriptor
      ∧ exec (.reservedS3 b d o) s = .refused .reservedDescriptor
      ∧ exec (.subword b d n o) s = .refused .subwordAccess
      ∧ exec (.misalignedB0 b d o) s = .refused .misalignedAccess
      ∧ exec (.misalignedB1 b d o) s = .refused .misalignedAccess
      ∧ exec (.evReserved b c o) s = .refused .reservedDescriptor

/-- 60_exceptions.md R232: every call but those the spec refuses returns, in every state; and a refused one is of a refusal row. -/
def Obligations.EveryCallButARefusedOneReturns : Prop :=
  ∀ (i : Instr) (s : State), (isRefusalRow i = false → ∃ t, exec i s = .next t)
    ∧ (isRefusalRow i = true → ∃ r, exec i s = .refused r)

/-- 30_encoding.md R92 with 40_regbank_irq.md R113 to R116, for every descriptor, operand and state: running the decoded
instruction is the RegisterBank dispatcher's call of the entry point the descriptor stands for. Of the access classes the
dispatcher reads RO alone. The refusals are the spec's decisions D1 and D3 (logs 3, 13), the region split is D2 (log 7). -/
def Obligations.ExecIsTheRegisterBankDispatch : Prop :=
  ∀ (c : Call) (s : State), exec (decode c) s = hostCall (fieldsOf c.descriptor) c.operand s

/-- 20_memory.md R82: a call of one block changes nothing of the other, and calls of different blocks have the same effect on both
blocks and return the same values in either order. -/
def Obligations.TheTwoBlocksShareNoState : Prop :=
  ∀ (i j : Instr) (s t u t' u' : State), blockOf i = .uart → blockOf j = .spi →
    exec i s = .next t → exec j t = .next u → exec j s = .next t' → exec i t' = .next u' →
    t.spi = s.spi ∧ t'.uart = s.uart ∧ u.uart = u'.uart ∧ u.spi = u'.spi ∧ t.result = u'.result ∧ u.result = t'.result

/-- 10_state.md R42 and R43, 70_reset_and_hazards.md R276: no call changes a parameter (VERID and PARAM among them), the clock input
or what the host has yet to do. -/
def Obligations.NoCallChangesParametersOrInputs : Prop :=
  ∀ (i : Instr) (s t : State), exec i s = .next t →
    t.config = s.config ∧ t.clockHz = s.clockHz ∧ t.pending = s.pending

/-- 00_scope.md R12 and R83, 60_exceptions.md R235: a call only appends to the traces, and at most one of the events it appends to
both of them is a diagnostic. -/
def Obligations.ACallAppendsAtMostOneDiagnostic : Prop :=
  ∀ (i : Instr) (s t : State), exec i s = .next t →
    s.uart.trace <+: t.uart.trace ∧ s.spi.trace <+: t.spi.trace
      ∧ (newUartEvents s t).countP isDiag + (newSpiEvents s t).countP isDiag ≤ 1

/-- 70_reset_and_hazards.md R270: at a quiescent point SETB and CLRB on STAT and SR change nothing, whatever the mask. -/
def Obligations.ReadModifyWriteOfAW1cRegisterChangesNothing : Prop :=
  ∀ (s : State) (m : Word), s.Quiescent →
    setb (.uart .stat) m s = .next { s with result := none } ∧ clrb (.uart .stat) m s = .next { s with result := none }
      ∧ setb (.spi .sr) m s = .next { s with result := none } ∧ clrb (.spi .sr) m s = .next { s with result := none }

/-- 30_encoding.md R106: a POLL of STAT or SR whose first read fails goes on failing however often it reads, and changes nothing.
R106 lets such a POLL never end; that it makes n + 1 reads and then answers the state with the last value read is the model's own
bound and outcome (DESIGN CHOICE, log 25). -/
def Obligations.APollThatFailsOnceFailsForEver : Prop :=
  ∀ (s : State) (m e : Word) (n : Nat), s.Quiescent →
    (s.uart.stat &&& m ≠ e → poll (.uart .stat) m e n s = .next { s with result := some s.uart.stat })
      ∧ (s.spi.sr &&& m ≠ e → poll (.spi .sr) m e n s = .next { s with result := some s.spi.sr })

/-! ## Decoding and stepping -/

/-- Decoding an encoded well-formed instruction gives it back, for every row of the opcode table and every operand
(30_encoding.md R90 to R93). -/
def Obligations.DecodeOfEncodeIsTheInstruction : Prop :=
  ∀ i : Instr, i.wellFormed = true → decode (encode i) = i

/-- The other direction: every descriptor decodes to a well-formed instruction whose row of the opcode table it matches, and encodes
back to the same descriptor, no bit dropped (30_encoding.md R92, R107). -/
def Obligations.EveryDescriptorDecodesToARowItMatches : Prop :=
  ∀ c : Call, (decode c).wellFormed = true ∧ (encode (decode c)).descriptor = c.descriptor
    ∧ c.descriptor &&& rowMask (decode c) = rowMatch (decode c)

/-- Words written out from 30_encoding.md R90, R91 and R93 (fields B, K, S, Z, O, highest first) decode to the instructions they
stand for. -/
def Obligations.WrittenOutWordsDecode : Prop :=
  (∀ x, decode ⟨0b0#1 ++ 0b00#2 ++ 0b10#2 ++ 0b000#3 ++ 0x00001C#24, x⟩ = .rdUartData)
    ∧ (∀ x, decode ⟨0b0#1 ++ 0b01#2 ++ 0b10#2 ++ 0b000#3 ++ 0x000010#24, x⟩ = .wrUartBaud x)
    ∧ (∀ x, decode ⟨0b1#1 ++ 0b00#2 ++ 0b10#2 ++ 0b000#3 ++ 0x000074#24, x⟩ = .rdSpiRdr)
    ∧ (∀ x, decode ⟨0b1#1 ++ 0b01#2 ++ 0b10#2 ++ 0b000#3 ++ 0x000064#24, x⟩ = .wrSpiTdr x)
    ∧ (∀ x, decode ⟨0b1#1 ++ 0b10#2 ++ 0b00#2 ++ 0b000#3 ++ 0x000000#24, x⟩ = .rstSpi)
    ∧ (∀ x, decode ⟨0b1#1 ++ 0b10#2 ++ 0b00#2 ++ 0b000#3 ++ 0x000001#24, x⟩ = .evReserved .spi 0 1)
    ∧ (∀ x, decode ⟨0b0#1 ++ 0b00#2 ++ 0b00#2 ++ 0b000#3 ++ 0x000015#24, x⟩ = .subword .uart .read .byte 0x15)
    ∧ (∀ x, decode ⟨0b0#1 ++ 0b01#2 ++ 0b10#2 ++ 0b000#3 ++ 0x001000#24, x⟩ = .wrUartUnmapped 0x1000 x)

/-- A call record read as bytes is the call, and a record of any other length than eight bytes is rejected by its length (the
model's own layout, log 2). -/
def Obligations.CallRecordsDecodeFromBytes : Prop :=
  (∀ c : Call, decodeBytes (bytesOfCall c) = .ok (decode c))
    ∧ ∀ bs : List Byte, bs.length ≠ 8 → decodeBytes bs = .error (.wrongLength bs.length)

/-- A step runs the instruction the next pending call decodes to, with that call taken off the list and nothing else added (10_state.md
R21, 20_memory.md R81; the list is the model's own, log 1). -/
def Obligations.AStepRunsTheNextCall : Prop :=
  ∀ (s : State) (c : Call) (rest : List HostAction) (nbits w : Nat),
    (s.pending = .call c :: rest → step s = exec (decode c) { s with pending := rest })
      ∧ step (s.withFetchWord nbits w) = exec (decode (callOfTableWord nbits w)) s

/-- With nothing pending a step changes nothing (log 1), and a clock change changes the clock input and nothing else, until
the next BAUD write samples it (70_reset_and_hazards.md R276; decision D14). -/
def Obligations.IdleAndClockSteps : Prop :=
  ∀ (s : State) (hz : Nat) (rest : List HostAction),
    (s.pending = [] → step s = .next s)
      ∧ (s.pending = .setClock hz :: rest → step s = .next { s with clockHz := hz, pending := rest })

/-! ## The access classes -/

/-- 40_regbank_irq.md R111 and R112, what each access class means for a write and for a read of every register: the classes are
those of R112. A write to an RW register stores V whole (but for CR with RST, which leaves 0); a write to a W1C register clears
the bits of its mask that V has 1 in and no others, off the bits its handler owns; from any state, a write without RST changes
no other RW register. At a quiescent point a write to an RO register is dropped with its diagnostic; a read returns the stored
or derived value and changes nothing, but for the pop of RDR; a WO register reads 0; DATA has no storage, and its read returns
the cell. The masks are the spec's decision D11, the read of TDR is D6, and an empty DATA read is D10. -/
def Obligations.AccessClassesReadAndWriteAsDeclared : Prop :=
  uartMap.map uartClass = [.rw, .w1c 0xFF5FFFFF, .rw, .handlers]
    ∧ spiMap.map spiClass = [.ro, .ro, .rw, .w1c 0xFFFFFFFF, .rw, .rw, .rw, .rw, .rw, .rw, .ro, .rw, .wo, .ro, .ro]
    ∧ ∀ (n : RegName) (s : State) (v : Word),
        (∃ t, exec (writeInstr v n) s = .next t
          ∧ (classOf n = .rw → t.stored n = some (if isRstWrite n v then 0 else v))
          ∧ (∀ m, classOf n = .w1c m → ∃ old new, s.stored n = some old ∧ t.stored n = some new
              ∧ new &&& ~~~handlerBits n = old &&& ~~~(v &&& m) &&& ~~~handlerBits n)
          ∧ (isRstWrite n v = false → ∀ n', n' ≠ n → classOf n' = .rw → t.stored n' = s.stored n'))
        ∧ (s.Quiescent →
            (classOf n = .ro → ∃ r, n = .spi r ∧ exec (writeInstr v n) s = .next { s with
                spi := { s.spi with trace := s.spi.trace ++ [.diag .readOnlyWrite (spiOffset r)] }, result := none })
            ∧ (classOf n ≠ .wo → classOf n ≠ .handlers → ∃ w t, s.stored n = some w ∧ exec (readInstr n) s = .next t
                ∧ t.result = some w ∧ (n ≠ .spi .rdr → t = { s with result := some w }))
            ∧ (classOf n = .wo → s.stored n = none ∧ exec (readInstr n) s = .next { s with result := some 0 })
            ∧ (classOf n = .handlers → s.stored n = none ∧ ∃ t, exec (readInstr n) s = .next t
                ∧ t.result = some (BitVec.ofNat 32 s.uart.rxCell.toNat) ∧ t.uart.ctrl = s.uart.ctrl
                ∧ t.uart.baud = s.uart.baud ∧ t.uart.rxCell = s.uart.rxCell ∧ t.uart.rdrf = false ∧ t.spi = s.spi))

/-! ## The pseudo-operation WRF -/

/-- 30_encoding.md R106 (the spec's decision D4): a WRF of named fields of its register is one write of the word that holds each
value at its field's bits, as 10_state.md places them, and 0 in every other bit, whatever the values. What a field holds for a
value too wide for it is free (log 25). That another list of fields has no expansion is the model's choice (log 25). -/
def Obligations.WrfPlacesNamedFieldsAndZeroElsewhere : Prop :=
  ∀ (n : RegName) (fields : List (Field × Nat)) (s : State),
    ((∀ p ∈ fields, fieldReg p.1 = n) ∧ (fields.map Prod.fst).Nodup →
      ∃ v : Word, wrf n fields s = some (exec (writeInstr v n) s)
        ∧ (∀ p ∈ fields, p.2 < 2 ^ fieldWidth p.1 → v.toNat / 2 ^ fieldLow p.1 % 2 ^ fieldWidth p.1 = p.2)
        ∧ (∀ i, (∀ p ∈ fields, i < fieldLow p.1 ∨ fieldLow p.1 + fieldWidth p.1 ≤ i) → v.getLsbD i = false))
    ∧ (¬((∀ p ∈ fields, fieldReg p.1 = n) ∧ (fields.map Prod.fst).Nodup) → wrf n fields s = none)
end

