-- ==== Sys2Proof/Laws/Decode.lean ====
section
/-! SUPPORT. Lemmas about fields, descriptors and bytes: packing then unpacking gives the fields back, and the other way round. -/

namespace Sys2Proof

theorem blockOfBit_bitOfBlock (b : Block) : blockOfBit ((bitOfBlock b).getLsbD 0) = b := by cases b <;> rfl

theorem fieldsOf_descriptorOf (f : Fields) : fieldsOf (descriptorOf f) = f := by
  obtain ⟨b, k, s, z, o⟩ := f
  simp only [fieldsOf, descriptorOf, Fields.mk.injEq]
  refine ⟨?_, ?_, ?_, ?_, ?_⟩
  · simp only [BitVec.getLsbD_append]
    exact blockOfBit_bitOfBlock b
  all_goals
    apply BitVec.eq_of_getLsbD_eq
    intro i hi
    simp only [BitVec.getLsbD_extractLsb', BitVec.getLsbD_append, hi, decide_true, Bool.true_and]
    grind

theorem descriptorOf_fieldsOf (w : Word) : descriptorOf (fieldsOf w) = w := by
  apply BitVec.eq_of_getLsbD_eq
  intro i hi
  simp only [fieldsOf, descriptorOf, BitVec.getLsbD_append, BitVec.getLsbD_extractLsb']
  rcases Nat.lt_or_ge i 31 with h | h
  · grind
  · obtain rfl : i = 31 := by omega
    cases h31 : w.getLsbD 31 <;> simp [blockOfBit, bitOfBlock]

theorem wordOfBytes_bytes (w : Word) :
    wordOfBytes (byteOfWord w 0) (byteOfWord w 1) (byteOfWord w 2) (byteOfWord w 3) = w := by
  apply BitVec.eq_of_getLsbD_eq
  intro i hi
  simp only [wordOfBytes, byteOfWord, BitVec.getLsbD_append, BitVec.getLsbD_extractLsb']
  grind

theorem decodeBytes_bytesOfCall (c : Call) : decodeBytes (bytesOfCall c) = .ok (decode c) := by
  simp [decodeBytes, bytesOfCall, bytesOfWord, callOfBytes, wordOfBytes_bytes]

theorem decodeTableWord_eq (nbits w : Nat) : decodeTableWord nbits w = some (decode (callOfTableWord nbits w)) := by
  simp [decodeTableWord, decodeBytes_bytesOfCall]

theorem lowByte_operandOfByte (b : Byte) : lowByte (operandOfByte b) = b := by
  apply BitVec.eq_of_getLsbD_eq
  intro i hi
  simp [lowByte, operandOfByte, hi]
  omega

/-- The decoder sees only the fields and the operand. -/
theorem decode_encode_eq (i : Instr) : decode (encode i) = decodeFields (encodeFields i) (encodeOperand i) := by
  simp [decode, encode, fieldsOf_descriptorOf]

end Sys2Proof
end

