-- ==== Sys2Proof/Laws/State.lean ====
section
/-! SUPPORT. One lemma per field and update: what each named update of a block or of the machine leaves in each field, so that no
later proof unfolds a record update. -/

namespace Sys2Proof.Machine

@[simp] theorem Uart.emit_baud (e : Event) (u : Uart) : (u.emit e).baud = u.baud := rfl
@[simp] theorem Uart.emit_stat (e : Event) (u : Uart) : (u.emit e).stat = u.stat := rfl
@[simp] theorem Uart.emit_ctrl (e : Event) (u : Uart) : (u.emit e).ctrl = u.ctrl := rfl
@[simp] theorem Uart.emit_rxCell (e : Event) (u : Uart) : (u.emit e).rxCell = u.rxCell := rfl
@[simp] theorem Uart.emit_irq (e : Event) (u : Uart) : (u.emit e).irq = u.irq := rfl
@[simp] theorem Uart.emit_trace (e : Event) (u : Uart) : (u.emit e).trace = u.trace ++ [e] := rfl

@[simp] theorem Uart.diag_baud (k : DiagKind) (o : Nat) (u : Uart) : (u.diag k o).baud = u.baud := rfl
@[simp] theorem Uart.diag_stat (k : DiagKind) (o : Nat) (u : Uart) : (u.diag k o).stat = u.stat := rfl
@[simp] theorem Uart.diag_ctrl (k : DiagKind) (o : Nat) (u : Uart) : (u.diag k o).ctrl = u.ctrl := rfl
@[simp] theorem Uart.diag_rxCell (k : DiagKind) (o : Nat) (u : Uart) : (u.diag k o).rxCell = u.rxCell := rfl
@[simp] theorem Uart.diag_irq (k : DiagKind) (o : Nat) (u : Uart) : (u.diag k o).irq = u.irq := rfl
@[simp] theorem Uart.diag_trace (k : DiagKind) (o : Nat) (u : Uart) : (u.diag k o).trace = u.trace ++ [.diag k o] := rfl

@[simp] theorem Uart.setTdre_baud (b : Bool) (u : Uart) : (u.setTdre b).baud = u.baud := rfl
@[simp] theorem Uart.setTdre_stat (b : Bool) (u : Uart) : (u.setTdre b).stat = setBit u.stat 23 b := rfl
@[simp] theorem Uart.setTdre_ctrl (b : Bool) (u : Uart) : (u.setTdre b).ctrl = u.ctrl := rfl
@[simp] theorem Uart.setTdre_rxCell (b : Bool) (u : Uart) : (u.setTdre b).rxCell = u.rxCell := rfl
@[simp] theorem Uart.setTdre_irq (b : Bool) (u : Uart) : (u.setTdre b).irq = u.irq := rfl
@[simp] theorem Uart.setTdre_trace (b : Bool) (u : Uart) : (u.setTdre b).trace = u.trace := rfl

@[simp] theorem Uart.setRdrf_baud (b : Bool) (u : Uart) : (u.setRdrf b).baud = u.baud := rfl
@[simp] theorem Uart.setRdrf_stat (b : Bool) (u : Uart) : (u.setRdrf b).stat = setBit u.stat 21 b := rfl
@[simp] theorem Uart.setRdrf_ctrl (b : Bool) (u : Uart) : (u.setRdrf b).ctrl = u.ctrl := rfl
@[simp] theorem Uart.setRdrf_rxCell (b : Bool) (u : Uart) : (u.setRdrf b).rxCell = u.rxCell := rfl
@[simp] theorem Uart.setRdrf_irq (b : Bool) (u : Uart) : (u.setRdrf b).irq = u.irq := rfl
@[simp] theorem Uart.setRdrf_trace (b : Bool) (u : Uart) : (u.setRdrf b).trace = u.trace := rfl

@[simp] theorem Spi.emit_cr (e : Event) (p : Spi) : (p.emit e).cr = p.cr := rfl
@[simp] theorem Spi.emit_sr (e : Event) (p : Spi) : (p.emit e).sr = p.sr := rfl
@[simp] theorem Spi.emit_ier (e : Event) (p : Spi) : (p.emit e).ier = p.ier := rfl
@[simp] theorem Spi.emit_der (e : Event) (p : Spi) : (p.emit e).der = p.der := rfl
@[simp] theorem Spi.emit_cfgr0 (e : Event) (p : Spi) : (p.emit e).cfgr0 = p.cfgr0 := rfl
@[simp] theorem Spi.emit_cfgr1 (e : Event) (p : Spi) : (p.emit e).cfgr1 = p.cfgr1 := rfl
@[simp] theorem Spi.emit_ccr (e : Event) (p : Spi) : (p.emit e).ccr = p.ccr := rfl
@[simp] theorem Spi.emit_fcr (e : Event) (p : Spi) : (p.emit e).fcr = p.fcr := rfl
@[simp] theorem Spi.emit_fsr (e : Event) (p : Spi) : (p.emit e).fsr = p.fsr := rfl
@[simp] theorem Spi.emit_tcr (e : Event) (p : Spi) : (p.emit e).tcr = p.tcr := rfl
@[simp] theorem Spi.emit_rsr (e : Event) (p : Spi) : (p.emit e).rsr = p.rsr := rfl
@[simp] theorem Spi.emit_rdr (e : Event) (p : Spi) : (p.emit e).rdr = p.rdr := rfl
@[simp] theorem Spi.emit_tx (e : Event) (p : Spi) : (p.emit e).tx = p.tx := rfl
@[simp] theorem Spi.emit_rx (e : Event) (p : Spi) : (p.emit e).rx = p.rx := rfl
@[simp] theorem Spi.emit_cs (e : Event) (p : Spi) : (p.emit e).cs = p.cs := rfl
@[simp] theorem Spi.emit_irq (e : Event) (p : Spi) : (p.emit e).irq = p.irq := rfl
@[simp] theorem Spi.emit_peerAnswers (e : Event) (p : Spi) : (p.emit e).peerAnswers = p.peerAnswers := rfl
@[simp] theorem Spi.emit_trace (e : Event) (p : Spi) : (p.emit e).trace = p.trace ++ [e] := rfl

@[simp] theorem Spi.diag_cr (k : DiagKind) (o : Nat) (p : Spi) : (p.diag k o).cr = p.cr := rfl
@[simp] theorem Spi.diag_sr (k : DiagKind) (o : Nat) (p : Spi) : (p.diag k o).sr = p.sr := rfl
@[simp] theorem Spi.diag_ier (k : DiagKind) (o : Nat) (p : Spi) : (p.diag k o).ier = p.ier := rfl
@[simp] theorem Spi.diag_der (k : DiagKind) (o : Nat) (p : Spi) : (p.diag k o).der = p.der := rfl
@[simp] theorem Spi.diag_cfgr0 (k : DiagKind) (o : Nat) (p : Spi) : (p.diag k o).cfgr0 = p.cfgr0 := rfl
@[simp] theorem Spi.diag_cfgr1 (k : DiagKind) (o : Nat) (p : Spi) : (p.diag k o).cfgr1 = p.cfgr1 := rfl
@[simp] theorem Spi.diag_ccr (k : DiagKind) (o : Nat) (p : Spi) : (p.diag k o).ccr = p.ccr := rfl
@[simp] theorem Spi.diag_fcr (k : DiagKind) (o : Nat) (p : Spi) : (p.diag k o).fcr = p.fcr := rfl
@[simp] theorem Spi.diag_fsr (k : DiagKind) (o : Nat) (p : Spi) : (p.diag k o).fsr = p.fsr := rfl
@[simp] theorem Spi.diag_tcr (k : DiagKind) (o : Nat) (p : Spi) : (p.diag k o).tcr = p.tcr := rfl
@[simp] theorem Spi.diag_rsr (k : DiagKind) (o : Nat) (p : Spi) : (p.diag k o).rsr = p.rsr := rfl
@[simp] theorem Spi.diag_rdr (k : DiagKind) (o : Nat) (p : Spi) : (p.diag k o).rdr = p.rdr := rfl
@[simp] theorem Spi.diag_tx (k : DiagKind) (o : Nat) (p : Spi) : (p.diag k o).tx = p.tx := rfl
@[simp] theorem Spi.diag_rx (k : DiagKind) (o : Nat) (p : Spi) : (p.diag k o).rx = p.rx := rfl
@[simp] theorem Spi.diag_cs (k : DiagKind) (o : Nat) (p : Spi) : (p.diag k o).cs = p.cs := rfl
@[simp] theorem Spi.diag_irq (k : DiagKind) (o : Nat) (p : Spi) : (p.diag k o).irq = p.irq := rfl
@[simp] theorem Spi.diag_peerAnswers (k : DiagKind) (o : Nat) (p : Spi) : (p.diag k o).peerAnswers = p.peerAnswers := rfl
@[simp] theorem Spi.diag_trace (k : DiagKind) (o : Nat) (p : Spi) : (p.diag k o).trace = p.trace ++ [.diag k o] := rfl

@[simp] theorem Spi.setMbf_cr (b : Bool) (p : Spi) : (p.setMbf b).cr = p.cr := rfl
@[simp] theorem Spi.setMbf_sr (b : Bool) (p : Spi) : (p.setMbf b).sr = setBit p.sr 24 b := rfl
@[simp] theorem Spi.setMbf_ier (b : Bool) (p : Spi) : (p.setMbf b).ier = p.ier := rfl
@[simp] theorem Spi.setMbf_der (b : Bool) (p : Spi) : (p.setMbf b).der = p.der := rfl
@[simp] theorem Spi.setMbf_cfgr0 (b : Bool) (p : Spi) : (p.setMbf b).cfgr0 = p.cfgr0 := rfl
@[simp] theorem Spi.setMbf_cfgr1 (b : Bool) (p : Spi) : (p.setMbf b).cfgr1 = p.cfgr1 := rfl
@[simp] theorem Spi.setMbf_ccr (b : Bool) (p : Spi) : (p.setMbf b).ccr = p.ccr := rfl
@[simp] theorem Spi.setMbf_fcr (b : Bool) (p : Spi) : (p.setMbf b).fcr = p.fcr := rfl
@[simp] theorem Spi.setMbf_fsr (b : Bool) (p : Spi) : (p.setMbf b).fsr = p.fsr := rfl
@[simp] theorem Spi.setMbf_tcr (b : Bool) (p : Spi) : (p.setMbf b).tcr = p.tcr := rfl
@[simp] theorem Spi.setMbf_rsr (b : Bool) (p : Spi) : (p.setMbf b).rsr = p.rsr := rfl
@[simp] theorem Spi.setMbf_rdr (b : Bool) (p : Spi) : (p.setMbf b).rdr = p.rdr := rfl
@[simp] theorem Spi.setMbf_tx (b : Bool) (p : Spi) : (p.setMbf b).tx = p.tx := rfl
@[simp] theorem Spi.setMbf_rx (b : Bool) (p : Spi) : (p.setMbf b).rx = p.rx := rfl
@[simp] theorem Spi.setMbf_cs (b : Bool) (p : Spi) : (p.setMbf b).cs = p.cs := rfl
@[simp] theorem Spi.setMbf_irq (b : Bool) (p : Spi) : (p.setMbf b).irq = p.irq := rfl
@[simp] theorem Spi.setMbf_peerAnswers (b : Bool) (p : Spi) : (p.setMbf b).peerAnswers = p.peerAnswers := rfl
@[simp] theorem Spi.setMbf_trace (b : Bool) (p : Spi) : (p.setMbf b).trace = p.trace := rfl

@[simp] theorem Spi.updateStatus_cr (c : Config) (p : Spi) : (p.updateStatus c).cr = p.cr := rfl
@[simp] theorem Spi.updateStatus_sr (c : Config) (p : Spi) : (p.updateStatus c).sr = srOf c p.tx p.rx p.sr := rfl
@[simp] theorem Spi.updateStatus_ier (c : Config) (p : Spi) : (p.updateStatus c).ier = p.ier := rfl
@[simp] theorem Spi.updateStatus_der (c : Config) (p : Spi) : (p.updateStatus c).der = p.der := rfl
@[simp] theorem Spi.updateStatus_cfgr0 (c : Config) (p : Spi) : (p.updateStatus c).cfgr0 = p.cfgr0 := rfl
@[simp] theorem Spi.updateStatus_cfgr1 (c : Config) (p : Spi) : (p.updateStatus c).cfgr1 = p.cfgr1 := rfl
@[simp] theorem Spi.updateStatus_ccr (c : Config) (p : Spi) : (p.updateStatus c).ccr = p.ccr := rfl
@[simp] theorem Spi.updateStatus_fcr (c : Config) (p : Spi) : (p.updateStatus c).fcr = p.fcr := rfl
@[simp] theorem Spi.updateStatus_fsr (c : Config) (p : Spi) : (p.updateStatus c).fsr = fsrOf p.tx p.rx := rfl
@[simp] theorem Spi.updateStatus_tcr (c : Config) (p : Spi) : (p.updateStatus c).tcr = p.tcr := rfl
@[simp] theorem Spi.updateStatus_rsr (c : Config) (p : Spi) : (p.updateStatus c).rsr = rsrOf p.rx := rfl
@[simp] theorem Spi.updateStatus_rdr (c : Config) (p : Spi) : (p.updateStatus c).rdr = p.rdr := rfl
@[simp] theorem Spi.updateStatus_tx (c : Config) (p : Spi) : (p.updateStatus c).tx = p.tx := rfl
@[simp] theorem Spi.updateStatus_rx (c : Config) (p : Spi) : (p.updateStatus c).rx = p.rx := rfl
@[simp] theorem Spi.updateStatus_cs (c : Config) (p : Spi) : (p.updateStatus c).cs = p.cs := rfl
@[simp] theorem Spi.updateStatus_irq (c : Config) (p : Spi) : (p.updateStatus c).irq = p.irq := rfl
@[simp] theorem Spi.updateStatus_peerAnswers (c : Config) (p : Spi) : (p.updateStatus c).peerAnswers = p.peerAnswers := rfl
@[simp] theorem Spi.updateStatus_trace (c : Config) (p : Spi) : (p.updateStatus c).trace = p.trace := rfl

@[simp] theorem Spi.driveLine_cr (i : Nat) (l : Bool) (p : Spi) : (p.driveLine i l).cr = p.cr := rfl
@[simp] theorem Spi.driveLine_sr (i : Nat) (l : Bool) (p : Spi) : (p.driveLine i l).sr = p.sr := rfl
@[simp] theorem Spi.driveLine_ier (i : Nat) (l : Bool) (p : Spi) : (p.driveLine i l).ier = p.ier := rfl
@[simp] theorem Spi.driveLine_der (i : Nat) (l : Bool) (p : Spi) : (p.driveLine i l).der = p.der := rfl
@[simp] theorem Spi.driveLine_cfgr0 (i : Nat) (l : Bool) (p : Spi) : (p.driveLine i l).cfgr0 = p.cfgr0 := rfl
@[simp] theorem Spi.driveLine_cfgr1 (i : Nat) (l : Bool) (p : Spi) : (p.driveLine i l).cfgr1 = p.cfgr1 := rfl
@[simp] theorem Spi.driveLine_ccr (i : Nat) (l : Bool) (p : Spi) : (p.driveLine i l).ccr = p.ccr := rfl
@[simp] theorem Spi.driveLine_fcr (i : Nat) (l : Bool) (p : Spi) : (p.driveLine i l).fcr = p.fcr := rfl
@[simp] theorem Spi.driveLine_fsr (i : Nat) (l : Bool) (p : Spi) : (p.driveLine i l).fsr = p.fsr := rfl
@[simp] theorem Spi.driveLine_tcr (i : Nat) (l : Bool) (p : Spi) : (p.driveLine i l).tcr = p.tcr := rfl
@[simp] theorem Spi.driveLine_rsr (i : Nat) (l : Bool) (p : Spi) : (p.driveLine i l).rsr = p.rsr := rfl
@[simp] theorem Spi.driveLine_rdr (i : Nat) (l : Bool) (p : Spi) : (p.driveLine i l).rdr = p.rdr := rfl
@[simp] theorem Spi.driveLine_tx (i : Nat) (l : Bool) (p : Spi) : (p.driveLine i l).tx = p.tx := rfl
@[simp] theorem Spi.driveLine_rx (i : Nat) (l : Bool) (p : Spi) : (p.driveLine i l).rx = p.rx := rfl
@[simp] theorem Spi.driveLine_cs (i : Nat) (l : Bool) (p : Spi) : (p.driveLine i l).cs = p.cs.set i l := rfl
@[simp] theorem Spi.driveLine_irq (i : Nat) (l : Bool) (p : Spi) : (p.driveLine i l).irq = p.irq := rfl
@[simp] theorem Spi.driveLine_peerAnswers (i : Nat) (l : Bool) (p : Spi) : (p.driveLine i l).peerAnswers = p.peerAnswers := rfl
@[simp] theorem Spi.driveLine_trace (i : Nat) (l : Bool) (p : Spi) : (p.driveLine i l).trace = p.trace ++ [.csLevel i l] := rfl

@[simp] theorem Spi.exchange_cr (i : Nat) (w : Word) (p : Spi) : (p.exchange i w).cr = p.cr := rfl
@[simp] theorem Spi.exchange_sr (i : Nat) (w : Word) (p : Spi) : (p.exchange i w).sr = p.sr := rfl
@[simp] theorem Spi.exchange_ier (i : Nat) (w : Word) (p : Spi) : (p.exchange i w).ier = p.ier := rfl
@[simp] theorem Spi.exchange_der (i : Nat) (w : Word) (p : Spi) : (p.exchange i w).der = p.der := rfl
@[simp] theorem Spi.exchange_cfgr0 (i : Nat) (w : Word) (p : Spi) : (p.exchange i w).cfgr0 = p.cfgr0 := rfl
@[simp] theorem Spi.exchange_cfgr1 (i : Nat) (w : Word) (p : Spi) : (p.exchange i w).cfgr1 = p.cfgr1 := rfl
@[simp] theorem Spi.exchange_ccr (i : Nat) (w : Word) (p : Spi) : (p.exchange i w).ccr = p.ccr := rfl
@[simp] theorem Spi.exchange_fcr (i : Nat) (w : Word) (p : Spi) : (p.exchange i w).fcr = p.fcr := rfl
@[simp] theorem Spi.exchange_fsr (i : Nat) (w : Word) (p : Spi) : (p.exchange i w).fsr = p.fsr := rfl
@[simp] theorem Spi.exchange_tcr (i : Nat) (w : Word) (p : Spi) : (p.exchange i w).tcr = p.tcr := rfl
@[simp] theorem Spi.exchange_rsr (i : Nat) (w : Word) (p : Spi) : (p.exchange i w).rsr = p.rsr := rfl
@[simp] theorem Spi.exchange_rdr (i : Nat) (w : Word) (p : Spi) : (p.exchange i w).rdr = p.rdr := rfl
@[simp] theorem Spi.exchange_tx (i : Nat) (w : Word) (p : Spi) : (p.exchange i w).tx = p.tx := rfl
@[simp] theorem Spi.exchange_rx (i : Nat) (w : Word) (p : Spi) : (p.exchange i w).rx = pushWord p.rx (p.answer i w) := rfl
@[simp] theorem Spi.exchange_cs (i : Nat) (w : Word) (p : Spi) : (p.exchange i w).cs = p.cs := rfl
@[simp] theorem Spi.exchange_irq (i : Nat) (w : Word) (p : Spi) : (p.exchange i w).irq = p.irq := rfl
@[simp] theorem Spi.exchange_peerAnswers (i : Nat) (w : Word) (p : Spi) : (p.exchange i w).peerAnswers = p.peerAnswers.tail := rfl
@[simp] theorem Spi.exchange_trace (i : Nat) (w : Word) (p : Spi) : (p.exchange i w).trace = p.trace ++ [.exchange i w (p.answer i w)] := rfl

@[simp] theorem Spi.settled_cr (c : Config) (p : Spi) : (p.settled c).cr = p.cr := rfl
@[simp] theorem Spi.settled_sr (c : Config) (p : Spi) : (p.settled c).sr = statusWord c p.tx p.rx := rfl
@[simp] theorem Spi.settled_ier (c : Config) (p : Spi) : (p.settled c).ier = p.ier := rfl
@[simp] theorem Spi.settled_der (c : Config) (p : Spi) : (p.settled c).der = p.der := rfl
@[simp] theorem Spi.settled_cfgr0 (c : Config) (p : Spi) : (p.settled c).cfgr0 = p.cfgr0 := rfl
@[simp] theorem Spi.settled_cfgr1 (c : Config) (p : Spi) : (p.settled c).cfgr1 = p.cfgr1 := rfl
@[simp] theorem Spi.settled_ccr (c : Config) (p : Spi) : (p.settled c).ccr = p.ccr := rfl
@[simp] theorem Spi.settled_fcr (c : Config) (p : Spi) : (p.settled c).fcr = p.fcr := rfl
@[simp] theorem Spi.settled_fsr (c : Config) (p : Spi) : (p.settled c).fsr = countWord p.tx p.rx := rfl
@[simp] theorem Spi.settled_tcr (c : Config) (p : Spi) : (p.settled c).tcr = p.tcr := rfl
@[simp] theorem Spi.settled_rsr (c : Config) (p : Spi) : (p.settled c).rsr = emptyWord p.rx := rfl
@[simp] theorem Spi.settled_rdr (c : Config) (p : Spi) : (p.settled c).rdr = p.rdr := rfl
@[simp] theorem Spi.settled_tx (c : Config) (p : Spi) : (p.settled c).tx = p.tx := rfl
@[simp] theorem Spi.settled_rx (c : Config) (p : Spi) : (p.settled c).rx = p.rx := rfl
@[simp] theorem Spi.settled_cs (c : Config) (p : Spi) : (p.settled c).cs = p.cs := rfl
@[simp] theorem Spi.settled_irq (c : Config) (p : Spi) : (p.settled c).irq = spiLine c p.ier p.tx p.rx := rfl
@[simp] theorem Spi.settled_peerAnswers (c : Config) (p : Spi) : (p.settled c).peerAnswers = p.peerAnswers := rfl
@[simp] theorem Spi.settled_trace (c : Config) (p : Spi) : (p.settled c).trace = p.trace ++ edge .spi p.irq (spiLine c p.ier p.tx p.rx) := rfl

@[simp] theorem State.uartRead_config (f : Uart → Word × Uart) (s : State) : (s.uartRead f).config = s.config := rfl
@[simp] theorem State.uartRead_uart (f : Uart → Word × Uart) (s : State) : (s.uartRead f).uart = (f s.uart).2.irqUpdate := rfl
@[simp] theorem State.uartRead_spi (f : Uart → Word × Uart) (s : State) : (s.uartRead f).spi = s.spi := rfl
@[simp] theorem State.uartRead_clockHz (f : Uart → Word × Uart) (s : State) : (s.uartRead f).clockHz = s.clockHz := rfl
@[simp] theorem State.uartRead_pending (f : Uart → Word × Uart) (s : State) : (s.uartRead f).pending = s.pending := rfl
@[simp] theorem State.uartRead_result (f : Uart → Word × Uart) (s : State) : (s.uartRead f).result = some (f s.uart).1 := rfl

@[simp] theorem State.uartWrite_config (f : Uart → Uart) (s : State) : (s.uartWrite f).config = s.config := rfl
@[simp] theorem State.uartWrite_uart (f : Uart → Uart) (s : State) : (s.uartWrite f).uart = (f s.uart).irqUpdate := rfl
@[simp] theorem State.uartWrite_spi (f : Uart → Uart) (s : State) : (s.uartWrite f).spi = s.spi := rfl
@[simp] theorem State.uartWrite_clockHz (f : Uart → Uart) (s : State) : (s.uartWrite f).clockHz = s.clockHz := rfl
@[simp] theorem State.uartWrite_pending (f : Uart → Uart) (s : State) : (s.uartWrite f).pending = s.pending := rfl
@[simp] theorem State.uartWrite_result (f : Uart → Uart) (s : State) : (s.uartWrite f).result = none := rfl

@[simp] theorem State.uartEvent_config (f : Uart → Uart) (s : State) : (s.uartEvent f).config = s.config := rfl
@[simp] theorem State.uartEvent_uart (f : Uart → Uart) (s : State) : (s.uartEvent f).uart = f s.uart := rfl
@[simp] theorem State.uartEvent_spi (f : Uart → Uart) (s : State) : (s.uartEvent f).spi = s.spi := rfl
@[simp] theorem State.uartEvent_clockHz (f : Uart → Uart) (s : State) : (s.uartEvent f).clockHz = s.clockHz := rfl
@[simp] theorem State.uartEvent_pending (f : Uart → Uart) (s : State) : (s.uartEvent f).pending = s.pending := rfl
@[simp] theorem State.uartEvent_result (f : Uart → Uart) (s : State) : (s.uartEvent f).result = none := rfl

@[simp] theorem State.spiRead_config (f : Spi → Word × Spi) (s : State) : (s.spiRead f).config = s.config := rfl
@[simp] theorem State.spiRead_uart (f : Spi → Word × Spi) (s : State) : (s.spiRead f).uart = s.uart := rfl
@[simp] theorem State.spiRead_spi (f : Spi → Word × Spi) (s : State) : (s.spiRead f).spi = (f (s.spi.updateStatus s.config)).2.irqUpdate := rfl
@[simp] theorem State.spiRead_clockHz (f : Spi → Word × Spi) (s : State) : (s.spiRead f).clockHz = s.clockHz := rfl
@[simp] theorem State.spiRead_pending (f : Spi → Word × Spi) (s : State) : (s.spiRead f).pending = s.pending := rfl
@[simp] theorem State.spiRead_result (f : Spi → Word × Spi) (s : State) : (s.spiRead f).result = some (f (s.spi.updateStatus s.config)).1 := rfl

@[simp] theorem State.spiWrite_config (f : Spi → Spi) (s : State) : (s.spiWrite f).config = s.config := rfl
@[simp] theorem State.spiWrite_uart (f : Spi → Spi) (s : State) : (s.spiWrite f).uart = s.uart := rfl
@[simp] theorem State.spiWrite_spi (f : Spi → Spi) (s : State) : (s.spiWrite f).spi = ((f s.spi).updateStatus s.config).irqUpdate := rfl
@[simp] theorem State.spiWrite_clockHz (f : Spi → Spi) (s : State) : (s.spiWrite f).clockHz = s.clockHz := rfl
@[simp] theorem State.spiWrite_pending (f : Spi → Spi) (s : State) : (s.spiWrite f).pending = s.pending := rfl
@[simp] theorem State.spiWrite_result (f : Spi → Spi) (s : State) : (s.spiWrite f).result = none := rfl

@[simp] theorem State.spiEvent_config (f : Spi → Spi) (s : State) : (s.spiEvent f).config = s.config := rfl
@[simp] theorem State.spiEvent_uart (f : Spi → Spi) (s : State) : (s.spiEvent f).uart = s.uart := rfl
@[simp] theorem State.spiEvent_spi (f : Spi → Spi) (s : State) : (s.spiEvent f).spi = f s.spi := rfl
@[simp] theorem State.spiEvent_clockHz (f : Spi → Spi) (s : State) : (s.spiEvent f).clockHz = s.clockHz := rfl
@[simp] theorem State.spiEvent_pending (f : Spi → Spi) (s : State) : (s.spiEvent f).pending = s.pending := rfl
@[simp] theorem State.spiEvent_result (f : Spi → Spi) (s : State) : (s.spiEvent f).result = none := rfl

@[simp] theorem State.withFetchWord_config (n w : Nat) (s : State) : (s.withFetchWord n w).config = s.config := rfl
@[simp] theorem State.withFetchWord_uart (n w : Nat) (s : State) : (s.withFetchWord n w).uart = s.uart := rfl
@[simp] theorem State.withFetchWord_spi (n w : Nat) (s : State) : (s.withFetchWord n w).spi = s.spi := rfl
@[simp] theorem State.withFetchWord_clockHz (n w : Nat) (s : State) : (s.withFetchWord n w).clockHz = s.clockHz := rfl
@[simp] theorem State.withFetchWord_pending (n w : Nat) (s : State) : (s.withFetchWord n w).pending = .call (callOfTableWord n w) :: s.pending := rfl
@[simp] theorem State.withFetchWord_result (n w : Nat) (s : State) : (s.withFetchWord n w).result = s.result := rfl

end Sys2Proof.Machine
end

