-- ==== Sys2Proof/Laws/Fifo.lean ====
section
/-! SUPPORT. The FIFO primitives: what a push adds, what a pop takes, and queues of whole words (43_lpspi_transfer.md R200 to
R203). -/

namespace Sys2Proof.Machine

@[simp] theorem fifoBytes_length (w : Word) : (fifoBytes w).length = 4 := rfl

theorem fifoBytes_eq (w : Word) :
    fifoBytes w = [byteOfWord w 0, byteOfWord w 1, byteOfWord w 2, byteOfWord w 3] := rfl

theorem used_pushWord (q : List Byte) (w : Word) : used (pushWord q w) = used q + 4 := by
  simp [used, pushWord]

theorem popWord_append (w : Word) (q : List Byte) : popWord (fifoBytes w ++ q) = some (w, q) := by
  simp [fifoBytes_eq, popWord, fifoWord, wordOfBytes_bytes]

theorem popWord_eq_none (q : List Byte) : popWord q = none ↔ used q < 4 := by
  unfold popWord used
  split
  · simp
  · rename_i h
    refine ⟨fun _ => ?_, fun _ => rfl⟩
    rcases q with _ | ⟨a, _ | ⟨b, _ | ⟨c, _ | ⟨d, r⟩⟩⟩⟩
    iterate 4 simp
    exact (h a b c d r rfl).elim

theorem popWord_eq_some (q : List Byte) (w : Word) (r : List Byte) :
    popWord q = some (w, r) ↔ q = fifoBytes w ++ r := by
  constructor
  · intro h
    unfold popWord at h
    split at h
    · rename_i b0 b1 b2 b3 rest
      simp only [Option.some.injEq, Prod.mk.injEq] at h
      obtain ⟨rfl, rfl⟩ := h
      have e (i : Nat) (hi : i < 4) : byteOfWord (b3 ++ b2 ++ b1 ++ b0) i = [b0, b1, b2, b3][i]'(by simpa using hi) := by
        apply BitVec.eq_of_getLsbD_eq
        intro j hj
        have : i = 0 ∨ i = 1 ∨ i = 2 ∨ i = 3 := by omega
        rcases this with rfl | rfl | rfl | rfl <;>
          simp only [byteOfWord, BitVec.getLsbD_extractLsb', BitVec.getLsbD_append, List.getElem_cons_zero,
            List.getElem_cons_succ] <;> grind
      have e0 := e 0 (by omega)
      have e1 := e 1 (by omega)
      have e2 := e 2 (by omega)
      have e3 := e 3 (by omega)
      simp only [List.getElem_cons_zero, List.getElem_cons_succ] at e0 e1 e2 e3
      rw [fifoBytes_eq]
      simp only [fifoWord, wordOfBytes, e0, e1, e2, e3, List.cons_append, List.nil_append]
    · simp at h
  · rintro rfl
    exact popWord_append w r

@[simp] theorem fifoOfWords_nil : fifoOfWords [] = [] := rfl

theorem fifoOfWords_cons (w : Word) (ws : List Word) : fifoOfWords (w :: ws) = fifoBytes w ++ fifoOfWords ws := rfl

theorem fifoOfWords_append (ws vs : List Word) : fifoOfWords (ws ++ vs) = fifoOfWords ws ++ fifoOfWords vs := by
  simp [fifoOfWords]

theorem fifoOfWords_singleton (w : Word) : fifoOfWords [w] = fifoBytes w := by simp [fifoOfWords]

@[simp] theorem fifoOfWords_length (ws : List Word) : (fifoOfWords ws).length = 4 * ws.length := by
  induction ws with
  | nil => rfl
  | cons w ws ih => rw [fifoOfWords_cons, List.length_append, ih, fifoBytes_length, List.length_cons]; omega

theorem pushWord_fifoOfWords (ws : List Word) (w : Word) : pushWord (fifoOfWords ws) w = fifoOfWords (ws ++ [w]) := by
  rw [fifoOfWords_append, fifoOfWords_singleton, pushWord]

theorem wordsOf_cons (w : Word) (q : List Byte) : wordsOf (fifoBytes w ++ q) = w :: wordsOf q := by
  have := wordOfBytes_bytes w
  simp only [wordOfBytes] at this
  simp [fifoBytes_eq, wordsOf, this]

theorem wordsOf_fifoOfWords (ws : List Word) : wordsOf (fifoOfWords ws) = ws := by
  induction ws with
  | nil => rfl
  | cons w ws ih => rw [fifoOfWords_cons, wordsOf_cons, ih]

/-- A queue of whole words is the bytes of a list of words. -/
theorem eq_fifoOfWords_of_length (q : List Byte) (h : q.length % 4 = 0) : q = fifoOfWords (wordsOf q) := by
  induction hn : q.length using Nat.strong_induction_on generalizing q with
  | _ n ih =>
    cases hp : popWord q with
    | none =>
      have := (popWord_eq_none q).1 hp
      have h0 : q.length = 0 := by unfold used at this; omega
      rw [List.length_eq_zero_iff.1 h0]
      rfl
    | some wr =>
      obtain ⟨w, r⟩ := wr
      obtain rfl := (popWord_eq_some q w r).1 hp
      simp only [List.length_append, fifoBytes_length] at h hn
      rw [wordsOf_cons, fifoOfWords_cons, ← ih r.length (by omega) r (by omega) rfl]

theorem drop_fifoOfWords (n : Nat) (ws : List Word) : (fifoOfWords ws).drop (4 * n) = fifoOfWords (ws.drop n) := by
  induction n generalizing ws with
  | zero => simp
  | succ n ih =>
    cases ws with
    | nil => simp
    | cons w ws =>
      rw [fifoOfWords_cons, show 4 * (n + 1) = (fifoBytes w).length + 4 * n by simp; omega, List.drop_append]
      simp [ih]

end Sys2Proof.Machine
end

