-- ==== Sys2Proof/Laws/Words.lean ====
section
/-! SUPPORT. Lemmas about words: what a bit write does to each bit, the masks of the status registers bit by bit, and the words
UpdateStatus computes in the form of 10_state.md R60. -/

namespace Sys2Proof.Machine

theorem getLsbD_bit (i j : Nat) (hi : i < 32) : (bit i).getLsbD j = decide (j = i) := by
  simp only [bit, BitVec.getLsbD_shiftLeft, BitVec.getLsbD_one]
  grind

theorem getLsbD_setBit (w : Word) (i j : Nat) (b : Bool) (hi : i < 32) :
    (setBit w i b).getLsbD j = if j = i then b else w.getLsbD j := by
  unfold setBit
  rcases Nat.lt_or_ge j 32 with hj | hj
  · cases b <;> simp only [Bool.false_eq_true, ↓reduceIte, BitVec.getLsbD_or, BitVec.getLsbD_and, BitVec.getLsbD_not,
      getLsbD_bit _ _ hi, hj, decide_true, Bool.true_and] <;> grind
  · have h1 : w.getLsbD j = false := BitVec.getLsbD_of_ge _ _ hj
    have h2 : (bit i).getLsbD j = false := BitVec.getLsbD_of_ge _ _ hj
    have h3 : ¬ j = i := by omega
    cases b <;> simp [BitVec.getLsbD_or, BitVec.getLsbD_and, h1, h2, h3]

theorem getLsbD_uartIrqMask (j : Nat) (hj : j < 32) :
    uartIrqMask.getLsbD j = (decide (j = 21) || decide (j = 23)) := by
  revert hj j; decide

theorem getLsbD_spiIrqMask (j : Nat) (hj : j < 32) : spiIrqMask.getLsbD j = (decide (j = 0) || decide (j = 1)) := by
  revert hj j; decide

theorem getLsbD_statW1cMask (j : Nat) (hj : j < 32) :
    statW1cMask.getLsbD j = (!decide (j = 21) && !decide (j = 23)) := by
  revert hj j; decide

/-- A word is nonzero exactly when one of its bits is set. -/
theorem ne_zero_iff_bit (w : Word) : w ≠ 0 ↔ ∃ j, j < 32 ∧ w.getLsbD j = true := by
  constructor
  · intro h
    by_contra hn
    push Not at hn
    exact h (BitVec.eq_of_getLsbD_eq fun i hi => by simpa using hn i hi)
  · rintro ⟨j, -, hj⟩ rfl
    simp at hj

/-- The level of two sources, on the bits of status and enable. -/
theorem irqLevel_uart (status enable : Word) :
    irqLevel status enable uartIrqMask
      = ((enable.getLsbD 21 && status.getLsbD 21) || (enable.getLsbD 23 && status.getLsbD 23)) := by
  rw [irqLevel, Bool.eq_iff_iff, decide_eq_true_iff, ne_zero_iff_bit]
  simp only [Bool.or_eq_true, Bool.and_eq_true, BitVec.getLsbD_and]
  constructor
  · rintro ⟨j, hj, ⟨hs, he⟩, hm⟩
    rw [getLsbD_uartIrqMask j hj, Bool.or_eq_true, decide_eq_true_iff, decide_eq_true_iff] at hm
    rcases hm with rfl | rfl
    · exact .inl ⟨he, hs⟩
    · exact .inr ⟨he, hs⟩
  · rintro (⟨he, hs⟩ | ⟨he, hs⟩)
    · exact ⟨21, by omega, ⟨hs, he⟩, by decide⟩
    · exact ⟨23, by omega, ⟨hs, he⟩, by decide⟩

theorem irqLevel_spi (status enable : Word) :
    irqLevel status enable spiIrqMask
      = ((enable.getLsbD 0 && status.getLsbD 0) || (enable.getLsbD 1 && status.getLsbD 1)) := by
  rw [irqLevel, Bool.eq_iff_iff, decide_eq_true_iff, ne_zero_iff_bit]
  simp only [Bool.or_eq_true, Bool.and_eq_true, BitVec.getLsbD_and]
  constructor
  · rintro ⟨j, hj, ⟨hs, he⟩, hm⟩
    rw [getLsbD_spiIrqMask j hj, Bool.or_eq_true, decide_eq_true_iff, decide_eq_true_iff] at hm
    rcases hm with rfl | rfl
    · exact .inl ⟨he, hs⟩
    · exact .inr ⟨he, hs⟩
  · rintro (⟨he, hs⟩ | ⟨he, hs⟩)
    · exact ⟨0, by omega, ⟨hs, he⟩, by decide⟩
    · exact ⟨1, by omega, ⟨hs, he⟩, by decide⟩

theorem getLsbD_statusWord (c : Config) (tx rx : List Byte) (j : Nat) (hj : j < 32) :
    (statusWord c tx rx).getLsbD j
      = ((decide (j = 0) && tdfOf c tx) || (decide (j = 1) && rdfOf rx) || (decide (j = 24) && mbfOf tx)) := by
  unfold statusWord tdfOf rdfOf mbfOf
  by_cases h0 : 4 ≤ free c.txCap tx <;> by_cases h1 : 4 ≤ used rx <;> by_cases h2 : used tx = 0 <;>
    simp only [h0, h1, h2, ne_eq, not_true_eq_false, not_false_eq_true, ↓reduceIte, decide_true, decide_false] <;>
    clear h0 h1 h2 <;> revert j <;> decide

/-- UpdateStatus leaves every SR bit but the three derived ones, which are those of `statusWord`. -/
theorem srOf_eq (c : Config) (tx rx : List Byte) (sr : Word) :
    srOf c tx rx sr = (sr &&& ~~~0x01000003#32) ||| statusWord c tx rx := by
  apply BitVec.eq_of_getLsbD_eq
  intro j hj
  have hm : (0x01000003#32).getLsbD j = (decide (j = 0) || decide (j = 1) || decide (j = 24)) := by
    clear * - hj; revert j; decide
  rw [srOf, getLsbD_setBit _ _ _ _ (by omega), getLsbD_setBit _ _ _ _ (by omega), getLsbD_setBit _ _ _ _ (by omega),
    BitVec.getLsbD_or, BitVec.getLsbD_and, BitVec.getLsbD_not, getLsbD_statusWord _ _ _ _ hj, hm]
  by_cases h0 : j = 0 <;> by_cases h1 : j = 1 <;> by_cases h2 : j = 24 <;> simp_all

/-- A word that is a status word is the one UpdateStatus gives back. -/
theorem srOf_statusWord (c : Config) (tx rx tx' rx' : List Byte) :
    srOf c tx rx (statusWord c tx' rx') = statusWord c tx rx := by
  apply BitVec.eq_of_getLsbD_eq
  intro j hj
  rw [srOf, getLsbD_setBit _ _ _ _ (by omega), getLsbD_setBit _ _ _ _ (by omega), getLsbD_setBit _ _ _ _ (by omega),
    getLsbD_statusWord _ _ _ _ hj, getLsbD_statusWord _ _ _ _ hj]
  by_cases h0 : j = 0 <;> by_cases h1 : j = 1 <;> by_cases h2 : j = 24 <;> simp_all

theorem fsrOf_eq (tx rx : List Byte) (ht : used tx / 4 < 65536) : fsrOf tx rx = countWord tx rx := by
  apply BitVec.eq_of_toNat_eq
  simp only [fsrOf, countWord, BitVec.toNat_or, BitVec.toNat_shiftLeft, BitVec.toNat_ofNat]
  rw [Nat.shiftLeft_eq, Nat.mod_eq_of_lt (show used tx / 4 < 2 ^ 32 by omega)]
  have e : used rx / 4 % 2 ^ 32 * 2 ^ 16 % 2 ^ 32 = 2 ^ 16 * (used rx / 4 % 2 ^ 16) := by omega
  rw [e, ← Nat.two_pow_add_eq_or_of_lt (by omega)]
  omega

theorem rsrOf_eq (rx : List Byte) : rsrOf rx = emptyWord rx := by
  cases rx <;> simp [rsrOf, emptyWord, used]

/-! ### The named fields (30_encoding.md R106) -/

theorem fieldLow_add_fieldWidth_le (f : Field) : fieldLow f + fieldWidth f ≤ 32 := by cases f <;> decide

/-- Two named fields of one register have no bit in common. -/
theorem fields_disjoint (f g : Field) (hr : fieldReg f = fieldReg g) (hfg : f ≠ g) :
    fieldLow f + fieldWidth f ≤ fieldLow g ∨ fieldLow g + fieldWidth g ≤ fieldLow f := by
  revert hr hfg
  cases f <;> cases g <;> decide

/-- Off its field a placed value has no bit, whatever the value. -/
theorem getLsbD_placeField_of_outside (f : Field) (value i : Nat)
    (h : i < fieldLow f ∨ fieldLow f + fieldWidth f ≤ i) : (placeField f value).getLsbD i = false := by
  simp only [placeField, BitVec.getLsbD_shiftLeft, BitVec.getLsbD_setWidth]
  rcases h with h | h
  · simp [h]
  · rw [BitVec.getLsbD_of_ge _ _ (by omega)]
    simp

/-- In its field a placed value that fits has its own bits. -/
theorem getLsbD_placeField_of_fits (f : Field) (value i : Nat) (hv : value < 2 ^ fieldWidth f) (hi : i < fieldWidth f) :
    (placeField f value).getLsbD (fieldLow f + i) = value.testBit i := by
  have := fieldLow_add_fieldWidth_le f
  simp only [placeField, hv, if_true, BitVec.getLsbD_shiftLeft, BitVec.getLsbD_setWidth, BitVec.getLsbD_ofNat,
    Nat.add_sub_cancel_left, hi, show fieldLow f + i < 32 by omega, show i < 32 by omega, decide_true, Bool.true_and,
    show ¬ fieldLow f + i < fieldLow f by omega, decide_false, Bool.not_false]

/-- A bit that no named field holds is 0 in the word of a WRF. -/
theorem getLsbD_wrfValue_of_outside (fields : List (Field × Nat)) (i : Nat)
    (h : ∀ p ∈ fields, i < fieldLow p.1 ∨ fieldLow p.1 + fieldWidth p.1 ≤ i) : (wrfValue fields).getLsbD i = false := by
  induction fields with
  | nil => simp [wrfValue]
  | cons p rest ih =>
    simp only [wrfValue, BitVec.getLsbD_or, Bool.or_eq_false_iff]
    exact ⟨getLsbD_placeField_of_outside _ _ _ (h p (by simp)), ih fun q hq => h q (by simp [hq])⟩

end Sys2Proof.Machine
end

