-- ==== Sys2Proof/Laws/Ops.lean ====
section
/-! SUPPORT. One lemma for each shared operation that says everything it can do, and what the operations do at a quiescent point;
later proofs cite these and do not unfold the operations. -/

namespace Sys2Proof.Machine

@[simp] theorem edge_same (b : Block) (l : Bool) : edge b l l = [] := by simp [edge]

/-! ### IrqUpdate -/

theorem Uart.irqUpdate_eq (u : Uart) :
    u.irqUpdate = { u with irq := u.level, trace := u.trace ++ edge .uart u.irq u.level } := by
  unfold Uart.irqUpdate edge
  by_cases h : u.level = u.irq
  · simp [h]
  · simp [h, Ne.symm h, Uart.emit]

theorem Spi.irqUpdate_eq (p : Spi) :
    p.irqUpdate = { p with irq := p.level, trace := p.trace ++ edge .spi p.irq p.level } := by
  unfold Spi.irqUpdate edge
  by_cases h : p.level = p.irq
  · simp [h]
  · simp [h, Ne.symm h, Spi.emit]

theorem Uart.level_eq_terms (u : Uart) : u.level = ((u.rie && u.rdrf) || (u.tie && u.tdre)) := irqLevel_uart _ _

theorem Spi.level_eq_terms (p : Spi) : p.level = ((p.ier.getLsbD 0 && p.tdf) || (p.ier.getLsbD 1 && p.rdf)) :=
  irqLevel_spi _ _

/-- An IRQ update finds nothing to do where the line already is at its level. -/
theorem Uart.irqUpdate_of_level (u : Uart) (h : u.irq = u.level) : u.irqUpdate = u := by
  simp [Uart.irqUpdate, h]

theorem Uart.Quiescent.level {u : Uart} (h : u.Quiescent) : u.irq = u.level := by
  rw [h.2, u.level_eq_terms]

theorem Uart.Quiescent.irqUpdate {u : Uart} (h : u.Quiescent) : u.irqUpdate = u := u.irqUpdate_of_level h.level

theorem Uart.Quiescent.tdre {u : Uart} (h : u.Quiescent) : u.tdre = true := by
  unfold Uart.tdre
  rcases h.1 with h | h <;> rw [h] <;> decide

theorem Uart.Quiescent.stat_of_rdrf {u : Uart} (h : u.Quiescent) :
    u.stat = if u.rdrf then 0x00A00000 else 0x00800000 := by
  unfold Uart.rdrf
  rcases h.1 with h | h <;> rw [h] <;> decide

/-! ### Status -/

/-- No SR bit is set but the three derived ones. -/
abbrev Spi.SrClean (p : Spi) : Prop := p.sr &&& ~~~0x01000003#32 = 0

theorem srClean_statusWord (c : Config) (tx rx : List Byte) : statusWord c tx rx &&& ~~~0x01000003#32 = 0 := by
  unfold statusWord
  split <;> split <;> split <;> decide

theorem legal_caps {c : Config} (h : c.legal = true) :
    4 ≤ c.txCap ∧ c.txCap ≤ 124 ∧ c.txCap % 4 = 0 ∧ 4 ≤ c.rxCap ∧ c.rxCap ≤ 124 ∧ c.rxCap % 4 = 0 := by
  simp only [Config.legal, Bool.and_eq_true, decide_eq_true_eq] at h
  simp only [Config.txCap, Config.rxCap]
  omega

theorem Spi.updateStatus_eq (c : Config) (p : Spi) (hs : p.SrClean) (ht : p.tx.length ≤ 124) :
    p.updateStatus c
      = { p with fsr := countWord p.tx p.rx, sr := statusWord c p.tx p.rx, rsr := emptyWord p.rx } := by
  have h0 : srOf c p.tx p.rx p.sr = statusWord c p.tx p.rx := by rw [srOf_eq, hs]; simp
  rw [Spi.updateStatus, h0, rsrOf_eq, fsrOf_eq _ _ (by unfold used; omega)]

theorem Spi.updateStatus_level (c : Config) (p : Spi) : (p.updateStatus c).level = spiLine c p.ier p.tx p.rx := by
  rw [Spi.level_eq_terms]
  simp only [Spi.tdf, Spi.rdf, Spi.updateStatus_sr, Spi.updateStatus_ier, srOf, spiLine, tdfOf, rdfOf]
  rw [getLsbD_setBit _ _ _ _ (by omega), getLsbD_setBit _ _ _ _ (by omega), getLsbD_setBit _ _ _ _ (by omega),
    getLsbD_setBit _ _ _ _ (by omega), getLsbD_setBit _ _ _ _ (by omega)]
  simp

/-- UpdateStatus and IrqUpdate together bring the block to where the FIFOs and IER say. -/
theorem Spi.settle (c : Config) (p : Spi) (hs : p.SrClean) (ht : p.tx.length ≤ 124) :
    (p.updateStatus c).irqUpdate = p.settled c := by
  rw [Spi.irqUpdate_eq, Spi.updateStatus_level, Spi.updateStatus_eq c p hs ht]
  rfl

theorem Spi.settled_srClean (c : Config) (p : Spi) : (p.settled c).SrClean := srClean_statusWord _ _ _

theorem Spi.settled_settled (c : Config) (p : Spi) : (p.settled c).settled c = p.settled c := by
  simp [Spi.settled]

theorem Spi.Quiescent.settled {c : Config} {p : Spi} (h : p.Quiescent c) : p.settled c = p := by
  obtain ⟨_, _, _, _, hsr, hfsr, hrsr, _, hirq, _⟩ := h
  simp only [Spi.settled, ← hsr, ← hfsr, ← hrsr, ← hirq, edge_same, List.append_nil]

theorem Spi.Quiescent.srClean {c : Config} {p : Spi} (h : p.Quiescent c) : p.SrClean := by
  unfold Spi.SrClean
  rw [h.2.2.2.2.1]
  exact srClean_statusWord _ _ _

theorem Spi.Quiescent.tx_le {c : Config} {p : Spi} (h : p.Quiescent c) (hc : c.legal = true) : p.tx.length ≤ 124 := by
  have := legal_caps hc
  have := h.2.2.1
  omega

theorem Spi.Quiescent.updateStatus {c : Config} {p : Spi} (h : p.Quiescent c) (hc : c.legal = true) :
    p.updateStatus c = p := by
  rw [Spi.updateStatus_eq c p h.srClean (h.tx_le hc), ← h.2.2.2.2.1, ← h.2.2.2.2.2.1, ← h.2.2.2.2.2.2.1]

theorem Spi.Quiescent.level {c : Config} {p : Spi} (h : p.Quiescent c) (hc : c.legal = true) : p.irq = p.level := by
  have := Spi.updateStatus_level c p
  rw [h.updateStatus hc] at this
  rw [this, h.2.2.2.2.2.2.2.2.1]

theorem Spi.Quiescent.irqUpdate {c : Config} {p : Spi} (h : p.Quiescent c) (hc : c.legal = true) : p.irqUpdate = p := by
  simp [Spi.irqUpdate, ← h.level hc]

/-- The settled block is quiescent when its FIFOs hold whole words within capacity, its lines are high and CR.RST is clear. -/
theorem Spi.settled_quiescent (c : Config) (p : Spi) (h1 : p.tx.length % 4 = 0) (h2 : p.rx.length % 4 = 0)
    (h3 : p.tx.length ≤ c.txCap) (h4 : p.rx.length ≤ c.rxCap) (h5 : p.cs = List.replicate c.numCs true)
    (h6 : p.cr.getLsbD 1 = false) : (p.settled c).Quiescent c :=
  ⟨h1, h2, h3, h4, rfl, rfl, rfl, h5, rfl, h6⟩

/-! ### Burst -/

/-- The loop moves the words R213 counts, in order, the host's answers first. -/
theorem Spi.burstLoop_eq (c : Config) (line : Nat) :
    ∀ (fuel : Nat) (ws : List Word) (p : Spi), p.tx = fifoOfWords ws → ws.length ≤ fuel →
      ∃ answers : List Word, answers.length = min ws.length (free c.rxCap p.rx / 4)
        ∧ p.peerAnswers.take (min ws.length (free c.rxCap p.rx / 4)) <+: answers
        ∧ Spi.burstLoop c line fuel p = { p with
            tx := fifoOfWords (ws.drop (min ws.length (free c.rxCap p.rx / 4)))
            rx := p.rx ++ fifoOfWords answers
            peerAnswers := p.peerAnswers.drop (min ws.length (free c.rxCap p.rx / 4))
            trace := p.trace ++ List.zipWith (fun w r => .exchange line w r) ws answers }
  | 0, ws, p, htx, hf => by
    obtain rfl : ws = [] := List.length_eq_zero_iff.1 (by omega)
    exact ⟨[], by simp, by simp, by cases p; simp_all [Spi.burstLoop]⟩
  | fuel + 1, [], p, htx, _ => by
    refine ⟨[], by simp, by simp, ?_⟩
    cases p
    simp_all [Spi.burstLoop, popWord]
  | fuel + 1, w :: ws, p, htx, hf => by
    have hpop : popWord p.tx = some (w, fifoOfWords ws) := by rw [htx, fifoOfWords_cons, popWord_append]
    by_cases hfree : free c.rxCap p.rx < 4
    · rw [show min (w :: ws).length (free c.rxCap p.rx / 4) = 0 by omega]
      exact ⟨[], by simp, by simp, by simp [Spi.burstLoop, hpop, hfree, ← htx]⟩
    · obtain ⟨answers, hlen, hpre, heq⟩ :=
        Spi.burstLoop_eq c line fuel ws (Spi.exchange line w { p with tx := fifoOfWords ws }) rfl
          (by simpa using hf)
      have hu : free c.rxCap (Spi.exchange line w { p with tx := fifoOfWords ws }).rx = free c.rxCap p.rx - 4 := by
        simp only [Spi.exchange_rx, free, used_pushWord]; omega
      have hm : min (w :: ws).length (free c.rxCap p.rx / 4) = min ws.length ((free c.rxCap p.rx - 4) / 4) + 1 := by
        simp only [List.length_cons]; omega
      rw [hu] at hlen hpre heq
      refine ⟨Spi.answer line w { p with tx := fifoOfWords ws } :: answers, by rw [hm, List.length_cons, hlen], ?_, ?_⟩
      · rw [hm]
        cases hpa : p.peerAnswers with
        | nil => simp
        | cons a as =>
          simp only [Spi.exchange_peerAnswers, hpa, List.tail_cons] at hpre
          simpa [Spi.answer, hpa] using hpre
      · rw [show Spi.burstLoop c line (fuel + 1) p
            = Spi.burstLoop c line fuel (Spi.exchange line w { p with tx := fifoOfWords ws }) by
          simp [Spi.burstLoop, hpop, hfree], heq, hm]
        simp [Spi.exchange, Spi.emit, pushWord, fifoOfWords_cons]

/-- Driving a high line low and, after a loop that leaves the lines alone, high again leaves it high. -/
theorem set_set_replicate (n i : Nat) : ((List.replicate n true).set i false).set i true = List.replicate n true := by
  rw [List.set_set]
  apply List.ext_getElem <;> simp

theorem used_div_four (ws : List Word) : used (fifoOfWords ws) / 4 = ws.length := by
  simp [used]

/-- A burst that passed its checks, on a block whose lines are high and whose FIFOs hold whole words. -/
theorem Spi.runBurst_eq (c : Config) (line : Nat) (p : Spi) (htx : p.tx.length % 4 = 0)
    (hcs : p.cs = List.replicate c.numCs true) (hs : p.SrClean) (hl : p.tx.length ≤ 124) :
    ∃ answers : List Word, answers.length = burstWords c p ∧ p.peerAnswers.take (burstWords c p) <+: answers
      ∧ p.runBurst c line = (p.afterBurst c line answers).settled c := by
  have hw := eq_fifoOfWords_of_length p.tx htx
  have hn : used p.tx / 4 = (wordsOf p.tx).length := by rw [hw, used_div_four, wordsOf_fifoOfWords]
  obtain ⟨answers, hlen, hpre, heq⟩ := Spi.burstLoop_eq c line (used p.tx / 4) (wordsOf p.tx) (p.driveLine line false)
    hw (by omega)
  simp only [Spi.driveLine_rx, Spi.driveLine_peerAnswers, ← hn] at hlen hpre heq
  refine ⟨answers, hlen, hpre, ?_⟩
  have hclean : ∀ b, setBit p.sr 24 b &&& ~~~0x01000003#32 = 0 := by
    intro b
    apply BitVec.eq_of_getLsbD_eq
    intro j hj
    have hsj := congrArg (fun x => x.getLsbD j) hs
    simp only [BitVec.getLsbD_and, BitVec.getLsbD_not, hj, decide_true, Bool.true_and] at hsj ⊢
    rw [getLsbD_setBit _ _ _ _ (by omega)]
    by_cases h24 : j = 24
    · subst h24; cases b <;> simp
    · simpa [h24] using hsj
  have hdrop : fifoOfWords ((wordsOf p.tx).drop (burstWords c p)) = p.tx.drop (4 * burstWords c p) := by
    rw [← drop_fifoOfWords, ← hw]
  unfold Spi.runBurst
  rw [heq]
  rw [show min (used p.tx / 4) (free c.rxCap p.rx / 4) = burstWords c p from rfl]
  rw [hdrop]
  dsimp only
  have key : ∀ q : Spi, q.SrClean → q.tx.length ≤ 124 →
      (q = { p.afterBurst c line answers with sr := q.sr }) →
      (q.updateStatus c).irqUpdate = (p.afterBurst c line answers).settled c := by
    intro q hq hq' e
    rw [Spi.settle c q hq hq', e]
    rfl
  have hlen' : (p.tx.drop (4 * burstWords c p)).length ≤ 124 := by simp; omega
  split
  · apply key
    · exact hclean false
    · exact hlen'
    · simp [Spi.afterBurst, Spi.driveLine, Spi.emit, Spi.setMbf, hcs]
  · apply key
    · exact hs
    · exact hlen'
    · simp [Spi.afterBurst, Spi.driveLine, Spi.emit, hcs]

/-- Everything `Burst` can do on a block whose lines are high and whose FIFOs hold whole words. -/
theorem Spi.burst_cases (c : Config) (off : Nat) (p : Spi) (htx : p.tx.length % 4 = 0)
    (hcs : p.cs = List.replicate c.numCs true) (hs : p.SrClean) (hl : p.tx.length ≤ 124) :
    (p.burst c off = p ∧ p.BurstOutcome c off p)
      ∨ (p.burst c off = p.diag .badChipSelect off ∧ p.BurstOutcome c off (p.diag .badChipSelect off)
          ∧ p.men = true ∧ c.numCs ≤ pcsOf p.tcr)
      ∨ (∃ answers, p.burst c off = (p.afterBurst c (pcsOf p.tcr) answers).settled c
          ∧ p.BurstOutcome c off (p.afterBurst c (pcsOf p.tcr) answers) ∧ p.men = true
          ∧ 4 ≤ used p.tx ∧ 4 ≤ free c.rxCap p.rx ∧ pcsOf p.tcr < c.numCs ∧ answers.length = burstWords c p
          ∧ p.peerAnswers.take (burstWords c p) <+: answers) := by
  by_cases hm : p.men = false
  · exact .inl ⟨by simp [Spi.burst, hm], by simp [Spi.BurstOutcome, hm]⟩
  by_cases hb : used p.tx < 4 ∨ free c.rxCap p.rx < 4
  · refine .inl ⟨by simp [Spi.burst, hm, hb], ?_⟩
    unfold Spi.BurstOutcome
    rw [if_pos (by tauto)]
  have hno : ¬(p.men = false ∨ used p.tx < 4 ∨ free c.rxCap p.rx < 4) := by tauto
  by_cases hp : c.numCs ≤ pcsOf p.tcr
  · refine .inr (.inl ⟨by simp [Spi.burst, hm, hb, hp], ?_, by simpa using hm, hp⟩)
    unfold Spi.BurstOutcome
    rw [if_neg hno, if_pos hp]
    rfl
  · obtain ⟨answers, h1, h2, h3⟩ := Spi.runBurst_eq c (pcsOf p.tcr) p htx hcs hs hl
    refine .inr (.inr ⟨answers, by simp [Spi.burst, hm, hb, hp, h3], ?_, by simpa using hm, by omega, by omega, by omega,
      h1, h2⟩)
    unfold Spi.BurstOutcome
    rw [if_neg hno, if_neg hp]
    exact ⟨answers, h1, h2, rfl⟩

/-- The registers that only a write to them or a reset changes: the RW registers of the LPSPI (40_regbank_irq.md R112). -/
abbrev Spi.SameRw (p q : Spi) : Prop :=
  q.cr = p.cr ∧ q.ier = p.ier ∧ q.der = p.der ∧ q.cfgr0 = p.cfgr0 ∧ q.cfgr1 = p.cfgr1 ∧ q.ccr = p.ccr ∧ q.fcr = p.fcr
    ∧ q.tcr = p.tcr

theorem Spi.irqUpdate_sameRw (p : Spi) : p.SameRw p.irqUpdate := by
  rw [Spi.irqUpdate_eq]
  exact ⟨rfl, rfl, rfl, rfl, rfl, rfl, rfl, rfl⟩

theorem Spi.burstLoop_sameRw (c : Config) (line : Nat) (fuel : Nat) (p : Spi) :
    p.SameRw (Spi.burstLoop c line fuel p) := by
  induction fuel generalizing p with
  | zero => exact ⟨rfl, rfl, rfl, rfl, rfl, rfl, rfl, rfl⟩
  | succ fuel ih =>
    unfold Spi.burstLoop
    split
    · exact ⟨rfl, rfl, rfl, rfl, rfl, rfl, rfl, rfl⟩
    · split
      · exact ⟨rfl, rfl, rfl, rfl, rfl, rfl, rfl, rfl⟩
      · exact ih _

/-- `Burst` changes no RW register, from any state. -/
theorem Spi.burst_sameRw (c : Config) (off : Nat) (p : Spi) : p.SameRw (p.burst c off) := by
  unfold Spi.burst
  split
  · exact ⟨rfl, rfl, rfl, rfl, rfl, rfl, rfl, rfl⟩
  split
  · exact ⟨rfl, rfl, rfl, rfl, rfl, rfl, rfl, rfl⟩
  split
  · exact ⟨rfl, rfl, rfl, rfl, rfl, rfl, rfl, rfl⟩
  have loop := Spi.burstLoop_sameRw c (pcsOf p.tcr) (used p.tx / 4) (p.driveLine (pcsOf p.tcr) false)
  unfold Spi.runBurst
  dsimp only
  split <;> (rw [Spi.irqUpdate_eq]; exact loop)

/-! ### Reset -/

theorem Uart.reset_eq (c : Config) (u : Uart) :
    u.reset c = { (Uart.created c) with trace := u.trace ++ edge .uart u.irq false } := by
  unfold Uart.reset
  rw [Uart.irqUpdate_eq]
  simp [Uart.level, irqLevel, Uart.created]

theorem releaseEvents_eq (lines : List Bool) (i : Nat) :
    releaseEvents i lines
      = ((List.range lines.length).filter (fun j => !(lines.getD j true))).map (fun j => .csLevel (i + j) true) := by
  induction lines generalizing i with
  | nil => rfl
  | cons l rest ih =>
    have step : ((List.range rest.length).map Nat.succ).filter (fun j => !((l :: rest).getD j true))
        = ((List.range rest.length).filter (fun j => !(rest.getD j true))).map Nat.succ := by
      rw [List.filter_map]
      rfl
    rw [List.length_cons, List.range_succ_eq_map, List.filter_cons, step]
    have shift : (fun j => Event.csLevel (i + 1 + j) true) = (fun j => Event.csLevel (i + j) true) ∘ Nat.succ := by
      funext j
      simp only [Function.comp, Nat.succ_eq_add_one]
      congr 1
      omega
    cases l <;> simp [releaseEvents, ih, shift]

theorem releaseEvents_replicate (n i : Nat) : releaseEvents i (List.replicate n true) = [] := by
  induction n generalizing i with
  | zero => rfl
  | succ n ih => rw [List.replicate_succ, releaseEvents, ih]

theorem Spi.reset_eq (c : Config) (p : Spi) (hc : c.legal = true) (hcs : p.cs.length = c.numCs) :
    p.reset c = { (Spi.created c) with
      peerAnswers := p.peerAnswers
      trace := p.trace ++ releaseEvents 0 p.cs ++ edge .spi p.irq false } := by
  have hcap := legal_caps hc
  unfold Spi.reset
  rw [Spi.settle _ _ (by simp [Spi.SrClean]) (by simp)]
  have hfree : 4 ≤ free c.txCap [] := by simp [free, used]; omega
  simp [Spi.settled, Spi.created, countWord, statusWord, emptyWord, spiLine, used, hfree, hcs]

end Sys2Proof.Machine
end

