-- ==== Sys2Proof/Laws/PerInstr.lean ====
section
/-! SUPPORT. The family RowMatch: the descriptor of a well-formed instruction matches its own row of
spec/opcode_table.json, one lemma for each constructor (30_encoding.md R92, R107). -/

namespace Sys2Proof.Laws.RowMatch

/-- The encoding of a well-formed instruction has the fixed bits of its row of spec/opcode_table.json. -/
def Statement (i : Instr) : Prop := i.wellFormed = true → (encode i).descriptor &&& rowMask i = rowMatch i

/-- The word whose fields, from the highest, are the given parts of a word is that word. -/
theorem append_parts (w : Word) :
    w.extractLsb' 31 1 ++ w.extractLsb' 29 2 ++ w.extractLsb' 27 2 ++ w.extractLsb' 24 3 ++ w.extractLsb' 0 24 = w := by
  apply BitVec.eq_of_getLsbD_eq
  intro i hi
  simp only [BitVec.getLsbD_append, BitVec.getLsbD_extractLsb']
  grind

/-- A descriptor matches a row when each of its fields does. -/
theorem row_matches (f : Fields) (mask want : Word)
    (hb : bitOfBlock f.b &&& mask.extractLsb' 31 1 = want.extractLsb' 31 1)
    (hk : f.k &&& mask.extractLsb' 29 2 = want.extractLsb' 29 2)
    (hs : f.s &&& mask.extractLsb' 27 2 = want.extractLsb' 27 2)
    (hz : f.z &&& mask.extractLsb' 24 3 = want.extractLsb' 24 3)
    (ho : f.o &&& mask.extractLsb' 0 24 = want.extractLsb' 0 24) : descriptorOf f &&& mask = want := by
  rw [← append_parts mask, ← append_parts want, descriptorOf, BitVec.and_append, BitVec.and_append, BitVec.and_append,
    BitVec.and_append, hb, hk, hs, hz, ho]

/-- A mask without bits in a field asks nothing of it. -/
theorem free_field {n : Nat} (x : BitVec n) : x &&& 0#n = 0#n := BitVec.and_zero

theorem dir_field (d : Dir) : bitsOfDir d &&& 2#2 = 0#2 := by cases d <;> rfl

theorem subSize_field (n : SubSize) : bitsOfSubSize n &&& 2#2 = 0#2 := by cases n <;> rfl

theorem z_bit24 (z21 : BitVec 2) : (z21 ++ 1#1 : BitVec 3) &&& 1#3 = 1#3 := by revert z21; decide

theorem z_bit25 (z2 : BitVec 1) : (z2 ++ 2#2 : BitVec 3) &&& 2#3 = 2#3 := by revert z2; decide

theorem offset_bit0 (o : Offset) (h : o.toNat % 2 = 1) : o &&& 1#24 = 1#24 := by
  apply BitVec.eq_of_toNat_eq
  simpa [Nat.and_one_is_mod] using h

theorem offset_bits10 (o : Offset) (r : Nat) (hr : r < 4) (h : o.toNat % 4 = r) :
    o &&& 3#24 = BitVec.ofNat 24 r := by
  apply BitVec.eq_of_toNat_eq
  have e : o.toNat &&& 3 = o.toNat % 4 := Nat.and_two_pow_sub_one_eq_mod o.toNat 2
  simp only [BitVec.toNat_and, BitVec.toNat_ofNat, Nat.reducePow, Nat.reduceMod, e, h]
  omega

theorem unmapped_offset (o : Offset) {b : Block} (h : (alignedOffset o && !Machine.isMapped b o.toNat) = true) :
    o.toNat % 4 = 0 := by
  simp only [alignedOffset, Bool.and_eq_true, decide_eq_true_eq] at h
  exact h.1

theorem rdUartBaud : Statement .rdUartBaud := fun _ => rfl

theorem rdUartStat : Statement .rdUartStat := fun _ => rfl

theorem rdUartCtrl : Statement .rdUartCtrl := fun _ => rfl

theorem rdUartData : Statement .rdUartData := fun _ => rfl

theorem wrUartBaud (v : Word) : Statement (.wrUartBaud v) := fun _ =>
  (by decide : descriptorOf ⟨.uart, 1, 2, 0, 0x10⟩ &&& 0xFFFFFFFF = 0x30000010)

theorem wrUartStat (v : Word) : Statement (.wrUartStat v) := fun _ =>
  (by decide : descriptorOf ⟨.uart, 1, 2, 0, 0x14⟩ &&& 0xFFFFFFFF = 0x30000014)

theorem wrUartCtrl (v : Word) : Statement (.wrUartCtrl v) := fun _ =>
  (by decide : descriptorOf ⟨.uart, 1, 2, 0, 0x18⟩ &&& 0xFFFFFFFF = 0x30000018)

theorem wrUartData (v : Word) : Statement (.wrUartData v) := fun _ =>
  (by decide : descriptorOf ⟨.uart, 1, 2, 0, 0x1C⟩ &&& 0xFFFFFFFF = 0x3000001C)

theorem rdSpiVerid : Statement .rdSpiVerid := fun _ => rfl

theorem rdSpiParam : Statement .rdSpiParam := fun _ => rfl

theorem rdSpiCr : Statement .rdSpiCr := fun _ => rfl

theorem rdSpiSr : Statement .rdSpiSr := fun _ => rfl

theorem rdSpiIer : Statement .rdSpiIer := fun _ => rfl

theorem rdSpiDer : Statement .rdSpiDer := fun _ => rfl

theorem rdSpiCfgr0 : Statement .rdSpiCfgr0 := fun _ => rfl

theorem rdSpiCfgr1 : Statement .rdSpiCfgr1 := fun _ => rfl

theorem rdSpiCcr : Statement .rdSpiCcr := fun _ => rfl

theorem rdSpiFcr : Statement .rdSpiFcr := fun _ => rfl

theorem rdSpiFsr : Statement .rdSpiFsr := fun _ => rfl

theorem rdSpiTcr : Statement .rdSpiTcr := fun _ => rfl

theorem rdSpiTdr : Statement .rdSpiTdr := fun _ => rfl

theorem rdSpiRsr : Statement .rdSpiRsr := fun _ => rfl

theorem rdSpiRdr : Statement .rdSpiRdr := fun _ => rfl

theorem wrSpiVerid (v : Word) : Statement (.wrSpiVerid v) := fun _ =>
  (by decide : descriptorOf ⟨.spi, 1, 2, 0, 0x00⟩ &&& 0xFFFFFFFF = 0xB0000000)

theorem wrSpiParam (v : Word) : Statement (.wrSpiParam v) := fun _ =>
  (by decide : descriptorOf ⟨.spi, 1, 2, 0, 0x04⟩ &&& 0xFFFFFFFF = 0xB0000004)

theorem wrSpiCr (v : Word) : Statement (.wrSpiCr v) := fun _ =>
  (by decide : descriptorOf ⟨.spi, 1, 2, 0, 0x10⟩ &&& 0xFFFFFFFF = 0xB0000010)

theorem wrSpiSr (v : Word) : Statement (.wrSpiSr v) := fun _ =>
  (by decide : descriptorOf ⟨.spi, 1, 2, 0, 0x14⟩ &&& 0xFFFFFFFF = 0xB0000014)

theorem wrSpiIer (v : Word) : Statement (.wrSpiIer v) := fun _ =>
  (by decide : descriptorOf ⟨.spi, 1, 2, 0, 0x18⟩ &&& 0xFFFFFFFF = 0xB0000018)

theorem wrSpiDer (v : Word) : Statement (.wrSpiDer v) := fun _ =>
  (by decide : descriptorOf ⟨.spi, 1, 2, 0, 0x1C⟩ &&& 0xFFFFFFFF = 0xB000001C)

theorem wrSpiCfgr0 (v : Word) : Statement (.wrSpiCfgr0 v) := fun _ =>
  (by decide : descriptorOf ⟨.spi, 1, 2, 0, 0x20⟩ &&& 0xFFFFFFFF = 0xB0000020)

theorem wrSpiCfgr1 (v : Word) : Statement (.wrSpiCfgr1 v) := fun _ =>
  (by decide : descriptorOf ⟨.spi, 1, 2, 0, 0x24⟩ &&& 0xFFFFFFFF = 0xB0000024)

theorem wrSpiCcr (v : Word) : Statement (.wrSpiCcr v) := fun _ =>
  (by decide : descriptorOf ⟨.spi, 1, 2, 0, 0x40⟩ &&& 0xFFFFFFFF = 0xB0000040)

theorem wrSpiFcr (v : Word) : Statement (.wrSpiFcr v) := fun _ =>
  (by decide : descriptorOf ⟨.spi, 1, 2, 0, 0x58⟩ &&& 0xFFFFFFFF = 0xB0000058)

theorem wrSpiFsr (v : Word) : Statement (.wrSpiFsr v) := fun _ =>
  (by decide : descriptorOf ⟨.spi, 1, 2, 0, 0x5C⟩ &&& 0xFFFFFFFF = 0xB000005C)

theorem wrSpiTcr (v : Word) : Statement (.wrSpiTcr v) := fun _ =>
  (by decide : descriptorOf ⟨.spi, 1, 2, 0, 0x60⟩ &&& 0xFFFFFFFF = 0xB0000060)

theorem wrSpiTdr (v : Word) : Statement (.wrSpiTdr v) := fun _ =>
  (by decide : descriptorOf ⟨.spi, 1, 2, 0, 0x64⟩ &&& 0xFFFFFFFF = 0xB0000064)

theorem wrSpiRsr (v : Word) : Statement (.wrSpiRsr v) := fun _ =>
  (by decide : descriptorOf ⟨.spi, 1, 2, 0, 0x70⟩ &&& 0xFFFFFFFF = 0xB0000070)

theorem wrSpiRdr (v : Word) : Statement (.wrSpiRdr v) := fun _ =>
  (by decide : descriptorOf ⟨.spi, 1, 2, 0, 0x74⟩ &&& 0xFFFFFFFF = 0xB0000074)

theorem rstUart : Statement .rstUart := fun _ => rfl

theorem evUartRxbyte (b : Byte) : Statement (.evUartRxbyte b) := fun _ =>
  (by decide : descriptorOf ⟨.uart, 2, 0, 0, 0x01⟩ &&& 0xFFFFFFFF = 0x40000001)

theorem rstSpi : Statement .rstSpi := fun _ => rfl

theorem reservedK3 (b : Block) (s : BitVec 2) (z : BitVec 3) (o : Offset) : Statement (.reservedK3 b s z o) := fun _ =>
  row_matches ⟨b, 3, s, z, o⟩ 0x60000000 0x60000000
    (free_field _) (by dsimp only; rfl) (free_field _) (free_field _) (free_field _)

theorem reservedZ0 (b : Block) (k : Kind) (s : BitVec 2) (z21 : BitVec 2) (o : Offset) :
    Statement (.reservedZ0 b k s z21 o) := fun _ =>
  row_matches ⟨b, bitsOfKind k, s, z21 ++ 1#1, o⟩ 0x01000000 0x01000000
    (free_field _) (free_field _) (free_field _) (z_bit24 z21) (free_field _)

theorem reservedZ1 (b : Block) (k : Kind) (s : BitVec 2) (z2 : BitVec 1) (o : Offset) :
    Statement (.reservedZ1 b k s z2 o) := fun _ =>
  row_matches ⟨b, bitsOfKind k, s, z2 ++ 2#2, o⟩ 0x02000000 0x02000000
    (free_field _) (free_field _) (free_field _) (z_bit25 z2) (free_field _)

theorem reservedZ2 (b : Block) (k : Kind) (s : BitVec 2) (o : Offset) : Statement (.reservedZ2 b k s o) := fun _ =>
  row_matches ⟨b, bitsOfKind k, s, 4, o⟩ 0x04000000 0x04000000
    (free_field _) (free_field _) (free_field _) (by dsimp only; rfl) (free_field _)

theorem reservedS3 (b : Block) (d : Dir) (o : Offset) : Statement (.reservedS3 b d o) := fun _ =>
  row_matches ⟨b, bitsOfDir d, 3, 0, o⟩ 0x58000000 0x18000000
    (free_field _) (dir_field d) (by dsimp only; rfl) (by dsimp only; rfl) (free_field _)

theorem subword (b : Block) (d : Dir) (n : SubSize) (o : Offset) : Statement (.subword b d n o) := fun _ =>
  row_matches ⟨b, bitsOfDir d, bitsOfSubSize n, 0, o⟩ 0x57000000 0x00000000
    (free_field _) (dir_field d) (subSize_field n) (by dsimp only; rfl) (free_field _)

theorem misalignedB0 (b : Block) (d : Dir) (o : Offset) : Statement (.misalignedB0 b d o) := fun h =>
  row_matches ⟨b, bitsOfDir d, 2, 0, o⟩ 0x5F000001 0x10000001
    (free_field _) (dir_field d) (by dsimp only; rfl) (by dsimp only; rfl) (offset_bit0 o (of_decide_eq_true h))

theorem misalignedB1 (b : Block) (d : Dir) (o : Offset) : Statement (.misalignedB1 b d o) := fun h =>
  row_matches ⟨b, bitsOfDir d, 2, 0, o⟩ 0x5F000003 0x10000002
    (free_field _) (dir_field d) (by dsimp only; rfl) (by dsimp only; rfl)
    (offset_bits10 o 2 (by decide) (of_decide_eq_true h))

theorem rdUartUnmapped (o : Offset) : Statement (.rdUartUnmapped o) := fun h =>
  row_matches ⟨.uart, 0, 2, 0, o⟩ 0xFF000003 0x10000000
    (by dsimp only; rfl) (by dsimp only; rfl) (by dsimp only; rfl) (by dsimp only; rfl)
    (offset_bits10 o 0 (by decide) (unmapped_offset o h))

theorem wrUartUnmapped (o : Offset) (v : Word) : Statement (.wrUartUnmapped o v) := fun h =>
  row_matches ⟨.uart, 1, 2, 0, o⟩ 0xFF000003 0x30000000
    (by dsimp only; rfl) (by dsimp only; rfl) (by dsimp only; rfl) (by dsimp only; rfl)
    (offset_bits10 o 0 (by decide) (unmapped_offset o h))

theorem rdSpiUnmapped (o : Offset) : Statement (.rdSpiUnmapped o) := fun h =>
  row_matches ⟨.spi, 0, 2, 0, o⟩ 0xFF000003 0x90000000
    (by dsimp only; rfl) (by dsimp only; rfl) (by dsimp only; rfl) (by dsimp only; rfl)
    (offset_bits10 o 0 (by decide) (unmapped_offset o h))

theorem wrSpiUnmapped (o : Offset) (v : Word) : Statement (.wrSpiUnmapped o v) := fun h =>
  row_matches ⟨.spi, 1, 2, 0, o⟩ 0xFF000003 0xB0000000
    (by dsimp only; rfl) (by dsimp only; rfl) (by dsimp only; rfl) (by dsimp only; rfl)
    (offset_bits10 o 0 (by decide) (unmapped_offset o h))

theorem evReserved (b : Block) (s : BitVec 2) (o : Offset) : Statement (.evReserved b s o) := fun _ =>
  row_matches ⟨b, 2, s, 0, o⟩ 0x60000000 0x40000000
    (free_field _) (by dsimp only; rfl) (free_field _) (by dsimp only; rfl) (free_field _)

end Sys2Proof.Laws.RowMatch
end

