-- ==== Sys2Proof/Tests/Slice0.lean ====
section
/-! SUPPORT. Tests of the model: the well-formedness check, decoding of words written out from 30_encoding.md, one-step tests
whose expected results are the vectors of 95_test_vectors.md (named in each comment), and for each statement with hypotheses a
witness that meets them. -/

namespace Sys2Proof.Tests

open Sys2Proof.Machine

/-! ### States the tests start from -/

/-- The parameters of 95_test_vectors.md, with values for the open ones so that a test can compare them. -/
def config : Config where
  numCs           := 4
  txFifoWords     := 4
  rxFifoWords     := 4
  baudReset       := 0x0F000004
  veridValue      := 0x01000004
  paramValue      := 0x00000202
  uartRegionBytes := 0x40
  spiRegionBytes  := 0x80
  uartBase        := 0x1000
  spiBase         := 0x2000
  lpspiClockHz    := 0

/-- The reset state of both blocks. -/
def fresh : State := State.created config 144000000

/-- `fresh` with the given LPUART CTRL, cell and fullness, at a quiescent point. -/
def uartWith (ctrl : Word) (cell : Byte) (full : Bool) : State :=
  { fresh with uart := { fresh.uart with
      ctrl := ctrl
      rxCell := cell
      stat := if full then 0x00A00000 else 0x00800000
      irq := (ctrl.getLsbD 21 && full) || ctrl.getLsbD 23 } }

/-- `fresh` with NUM_CS = n and the given CR, IER, TCR, FIFO words and peer answers, at a quiescent point. -/
def spiWith (n : Nat) (cr ier tcr : Word) (tx rx answers : List Word) : State :=
  let c := { config with numCs := n }
  let p : Spi := { (Spi.created c) with
    cr := cr, ier := ier, tcr := tcr, tx := fifoOfWords tx, rx := fifoOfWords rx, peerAnswers := answers }
  { State.created c 144000000 with spi := { p.settled c with trace := [] } }

/-- The words of 1.4 and 1.5 of 95_test_vectors.md. -/
def rxFull : List Word := [0x11111111, 0x22222222, 0x33333333, 0x44444444]
/-- The words of 1.5 of 95_test_vectors.md. -/
def txFull : List Word := [0x55555555, 0x66666666, 0x77777777, 0x88888888]
/-- The state after 1.5 step 9: both FIFOs full, with the echo of the oldest word lined up. -/
def bothFull : State := spiWith 4 1 0 0 txFull rxFull [0x55555555]

/-- A non-quiescent state: a line low, every SR bit set, half a word in tx. -/
def odd : State :=
  { fresh with spi := { fresh.spi with sr := 0xFFFFFFFF, tx := [1, 2], cs := [true, false, true, true], irq := true } }

/-- What a test looks at after an LPUART call: the value returned, STAT, the line and the events. -/
def uartView : Answer → Option (Option Word × Word × Bool × List Event)
  | .next t => some (t.result, t.uart.stat, t.uart.irq, t.uart.trace)
  | _ => none

/-- What a test looks at after an LPSPI call: the value returned, FSR, SR and the events. -/
def spiView : Answer → Option (Option Word × Word × Word × List Event)
  | .next t => some (t.result, t.spi.fsr, t.spi.sr, t.spi.trace)
  | _ => none

/-- The value a call returns. -/
def value : Answer → Option Word
  | .next t => t.result
  | _ => none

/-- Whether a call leaves the blocks as they are but for the traces. -/
def sameBlocks (s : State) : Answer → Bool
  | .next t => decide ({ t.uart with trace := [] } = { s.uart with trace := [] })
      && decide ({ t.spi with trace := [] } = { s.spi with trace := [] })
  | _ => false

/-- Whether a call answers exactly this next state. -/
def gives (u : State) : Answer → Bool
  | .next t => decide (t = u)
  | _ => false

/-- The refusal of a call. -/
def refusal : Answer → Option Refusal
  | .refused r => some r
  | _ => none

/-! ### Well-formedness: each check refuses an ill-formed term -/

theorem test_wf_misalignedB0 : (Instr.misalignedB0 .uart .read 0x16).wellFormed = false := by decide
theorem test_wf_misalignedB1 : (Instr.misalignedB1 .uart .read 0x15).wellFormed = false := by decide
theorem test_wf_uart_unmapped_aligned : (Instr.rdUartUnmapped 0x01).wellFormed = false := by decide
theorem test_wf_uart_unmapped_mapped : (Instr.wrUartUnmapped 0x14 0).wellFormed = false := by decide
theorem test_wf_spi_unmapped_aligned : (Instr.wrSpiUnmapped 0x0A 0).wellFormed = false := by decide
theorem test_wf_spi_unmapped_mapped : (Instr.rdSpiUnmapped 0x74).wellFormed = false := by decide
theorem test_wf_event : (Instr.evReserved .uart 0 1).wellFormed = false := by decide
theorem test_wf_accepts : (Instr.evReserved .spi 0 1).wellFormed = true
    ∧ (Instr.rdUartUnmapped 0).wellFormed = true ∧ (Instr.misalignedB1 .spi .write 0x1A).wellFormed = true := by decide

/-! ### Decoding: a word of every row, its fields B, K, S, Z, O written out from 30_encoding.md R90, R91 and R93 -/

theorem test_decode_uart_reads :
    decode ⟨0b0#1 ++ 0b00#2 ++ 0b10#2 ++ 0b000#3 ++ 0x000010#24, 0⟩ = .rdUartBaud
      ∧ decode ⟨0b0#1 ++ 0b00#2 ++ 0b10#2 ++ 0b000#3 ++ 0x000014#24, 0⟩ = .rdUartStat
      ∧ decode ⟨0b0#1 ++ 0b00#2 ++ 0b10#2 ++ 0b000#3 ++ 0x000018#24, 0⟩ = .rdUartCtrl
      ∧ decode ⟨0b0#1 ++ 0b00#2 ++ 0b10#2 ++ 0b000#3 ++ 0x00001C#24, 0⟩ = .rdUartData
      ∧ decode ⟨0b0#1 ++ 0b00#2 ++ 0b10#2 ++ 0b000#3 ++ 0x000020#24, 0⟩ = .rdUartUnmapped 0x20 := by decide

theorem test_decode_uart_writes :
    decode ⟨0b0#1 ++ 0b01#2 ++ 0b10#2 ++ 0b000#3 ++ 0x000010#24, 0x0F000008⟩ = .wrUartBaud 0x0F000008
      ∧ decode ⟨0b0#1 ++ 0b01#2 ++ 0b10#2 ++ 0b000#3 ++ 0x000014#24, 1⟩ = .wrUartStat 1
      ∧ decode ⟨0b0#1 ++ 0b01#2 ++ 0b10#2 ++ 0b000#3 ++ 0x000018#24, 2⟩ = .wrUartCtrl 2
      ∧ decode ⟨0b0#1 ++ 0b01#2 ++ 0b10#2 ++ 0b000#3 ++ 0x00001C#24, 3⟩ = .wrUartData 3
      ∧ decode ⟨0b0#1 ++ 0b01#2 ++ 0b10#2 ++ 0b000#3 ++ 0xFFFFFC#24, 4⟩ = .wrUartUnmapped 0xFFFFFC 4 := by decide

theorem test_decode_spi_reads :
    decode ⟨0b1#1 ++ 0b00#2 ++ 0b10#2 ++ 0b000#3 ++ 0x000000#24, 0⟩ = .rdSpiVerid
      ∧ decode ⟨0b1#1 ++ 0b00#2 ++ 0b10#2 ++ 0b000#3 ++ 0x000004#24, 0⟩ = .rdSpiParam
      ∧ decode ⟨0b1#1 ++ 0b00#2 ++ 0b10#2 ++ 0b000#3 ++ 0x000010#24, 0⟩ = .rdSpiCr
      ∧ decode ⟨0b1#1 ++ 0b00#2 ++ 0b10#2 ++ 0b000#3 ++ 0x000014#24, 0⟩ = .rdSpiSr
      ∧ decode ⟨0b1#1 ++ 0b00#2 ++ 0b10#2 ++ 0b000#3 ++ 0x000018#24, 0⟩ = .rdSpiIer
      ∧ decode ⟨0b1#1 ++ 0b00#2 ++ 0b10#2 ++ 0b000#3 ++ 0x00001C#24, 0⟩ = .rdSpiDer
      ∧ decode ⟨0b1#1 ++ 0b00#2 ++ 0b10#2 ++ 0b000#3 ++ 0x000020#24, 0⟩ = .rdSpiCfgr0
      ∧ decode ⟨0b1#1 ++ 0b00#2 ++ 0b10#2 ++ 0b000#3 ++ 0x000024#24, 0⟩ = .rdSpiCfgr1
      ∧ decode ⟨0b1#1 ++ 0b00#2 ++ 0b10#2 ++ 0b000#3 ++ 0x000040#24, 0⟩ = .rdSpiCcr
      ∧ decode ⟨0b1#1 ++ 0b00#2 ++ 0b10#2 ++ 0b000#3 ++ 0x000058#24, 0⟩ = .rdSpiFcr
      ∧ decode ⟨0b1#1 ++ 0b00#2 ++ 0b10#2 ++ 0b000#3 ++ 0x00005C#24, 0⟩ = .rdSpiFsr
      ∧ decode ⟨0b1#1 ++ 0b00#2 ++ 0b10#2 ++ 0b000#3 ++ 0x000060#24, 0⟩ = .rdSpiTcr
      ∧ decode ⟨0b1#1 ++ 0b00#2 ++ 0b10#2 ++ 0b000#3 ++ 0x000064#24, 0⟩ = .rdSpiTdr
      ∧ decode ⟨0b1#1 ++ 0b00#2 ++ 0b10#2 ++ 0b000#3 ++ 0x000070#24, 0⟩ = .rdSpiRsr
      ∧ decode ⟨0b1#1 ++ 0b00#2 ++ 0b10#2 ++ 0b000#3 ++ 0x000074#24, 0⟩ = .rdSpiRdr
      ∧ decode ⟨0b1#1 ++ 0b00#2 ++ 0b10#2 ++ 0b000#3 ++ 0x000078#24, 0⟩ = .rdSpiUnmapped 0x78 := by decide

theorem test_decode_spi_writes :
    decode ⟨0b1#1 ++ 0b01#2 ++ 0b10#2 ++ 0b000#3 ++ 0x000000#24, 1⟩ = .wrSpiVerid 1
      ∧ decode ⟨0b1#1 ++ 0b01#2 ++ 0b10#2 ++ 0b000#3 ++ 0x000004#24, 2⟩ = .wrSpiParam 2
      ∧ decode ⟨0b1#1 ++ 0b01#2 ++ 0b10#2 ++ 0b000#3 ++ 0x000010#24, 3⟩ = .wrSpiCr 3
      ∧ decode ⟨0b1#1 ++ 0b01#2 ++ 0b10#2 ++ 0b000#3 ++ 0x000014#24, 4⟩ = .wrSpiSr 4
      ∧ decode ⟨0b1#1 ++ 0b01#2 ++ 0b10#2 ++ 0b000#3 ++ 0x000018#24, 5⟩ = .wrSpiIer 5
      ∧ decode ⟨0b1#1 ++ 0b01#2 ++ 0b10#2 ++ 0b000#3 ++ 0x00001C#24, 6⟩ = .wrSpiDer 6
      ∧ decode ⟨0b1#1 ++ 0b01#2 ++ 0b10#2 ++ 0b000#3 ++ 0x000020#24, 7⟩ = .wrSpiCfgr0 7
      ∧ decode ⟨0b1#1 ++ 0b01#2 ++ 0b10#2 ++ 0b000#3 ++ 0x000024#24, 8⟩ = .wrSpiCfgr1 8
      ∧ decode ⟨0b1#1 ++ 0b01#2 ++ 0b10#2 ++ 0b000#3 ++ 0x000040#24, 9⟩ = .wrSpiCcr 9
      ∧ decode ⟨0b1#1 ++ 0b01#2 ++ 0b10#2 ++ 0b000#3 ++ 0x000058#24, 10⟩ = .wrSpiFcr 10
      ∧ decode ⟨0b1#1 ++ 0b01#2 ++ 0b10#2 ++ 0b000#3 ++ 0x00005C#24, 11⟩ = .wrSpiFsr 11
      ∧ decode ⟨0b1#1 ++ 0b01#2 ++ 0b10#2 ++ 0b000#3 ++ 0x000060#24, 12⟩ = .wrSpiTcr 12
      ∧ decode ⟨0b1#1 ++ 0b01#2 ++ 0b10#2 ++ 0b000#3 ++ 0x000064#24, 13⟩ = .wrSpiTdr 13
      ∧ decode ⟨0b1#1 ++ 0b01#2 ++ 0b10#2 ++ 0b000#3 ++ 0x000070#24, 14⟩ = .wrSpiRsr 14
      ∧ decode ⟨0b1#1 ++ 0b01#2 ++ 0b10#2 ++ 0b000#3 ++ 0x000074#24, 15⟩ = .wrSpiRdr 15
      ∧ decode ⟨0b1#1 ++ 0b01#2 ++ 0b10#2 ++ 0b000#3 ++ 0x000080#24, 16⟩ = .wrSpiUnmapped 0x80 16 := by decide

theorem test_decode_events :
    decode ⟨0b0#1 ++ 0b10#2 ++ 0b00#2 ++ 0b000#3 ++ 0x000000#24, 0⟩ = .rstUart
      ∧ decode ⟨0b0#1 ++ 0b10#2 ++ 0b00#2 ++ 0b000#3 ++ 0x000001#24, 0x142⟩ = .evUartRxbyte 0x42
      ∧ decode ⟨0b1#1 ++ 0b10#2 ++ 0b00#2 ++ 0b000#3 ++ 0x000000#24, 0⟩ = .rstSpi := by decide

/-- B16 to B25 of 95_test_vectors.md 2.1, as descriptors. -/
theorem test_decode_refusal_rows :
    decode ⟨0x70000010, 0⟩ = .reservedK3 .uart 2 0 0x10 ∧ decode ⟨0x11000010, 0⟩ = .reservedZ0 .uart .read 2 0 0x10
      ∧ decode ⟨0xB6000010, 0⟩ = .reservedZ1 .spi .write 2 1 0x10
      ∧ decode ⟨0x44000000, 0⟩ = .reservedZ2 .uart .event 0 0 ∧ decode ⟨0x18000010, 0⟩ = .reservedS3 .uart .read 0x10
      ∧ decode ⟨0x00000015, 0⟩ = .subword .uart .read .byte 0x15
      ∧ decode ⟨0xA8000064, 0x1234⟩ = .subword .spi .write .half 0x64
      ∧ decode ⟨0x10000017, 0⟩ = .misalignedB0 .uart .read 0x17
      ∧ decode ⟨0x10000016, 0⟩ = .misalignedB1 .uart .read 0x16
      ∧ decode ⟨0x40000002, 0⟩ = .evReserved .uart 0 2 ∧ decode ⟨0xC0000001, 0⟩ = .evReserved .spi 0 1
      ∧ decode ⟨0x48000000, 0⟩ = .evReserved .uart 1 0 := by decide

/-- The bits of a table row: a 32-bit descriptor, an operand above it, and bits above nbits read as 0. -/
theorem test_table_words :
    decodeTableWord 32 0x30000010 = some (.wrUartBaud 0)
      ∧ decodeTableWord 64 0x0F00000830000010 = some (.wrUartBaud 0x0F000008)
      ∧ decodeTableWord 40 0x4240000001 = some (.evUartRxbyte 0x42)
      ∧ decodeTableWord 32 0x4240000001 = some (.evUartRxbyte 0) := by decide

/-! ### The LPUART, one step each -/

/-- 1.1. -/
theorem test_rdUartBaud : value (exec .rdUartBaud fresh) = some 0x0F000004 := by decide
/-- 1.3 step 3. -/
theorem test_rdUartStat : uartView (exec .rdUartStat fresh) = some (some 0x00800000, 0x00800000, false, []) := by decide
/-- 1.3. -/
theorem test_rdUartCtrl : value (exec .rdUartCtrl (uartWith 0x000C0000 0 false)) = some 0x000C0000 := by decide
/-- 1.3 step 5. -/
theorem test_rdUartData : uartView (exec .rdUartData (uartWith 0x000C0000 0x42 true))
    = some (some 0x42, 0x00800000, false, [.rxRoom]) := by decide
/-- U17: the line falls after RxRoom. -/
theorem test_rdUartData_edge : uartView (exec .rdUartData (uartWith 0x00240000 0x10 true))
    = some (some 0x10, 0x00800000, false, [.rxRoom, .irqEdge .uart false]) := by decide
/-- 1.2. -/
theorem test_wrUartBaud : uartView (exec (.wrUartBaud 0x0F000008) fresh)
    = some (none, 0x00800000, false, [.setParams 1125000]) := by decide
/-- U1 and U2. -/
theorem test_wrUartBaud_floor : uartView (exec (.wrUartBaud 0x1F001FFF) fresh)
      = some (none, 0x00800000, false, [.setParams 549])
    ∧ uartView (exec (.wrUartBaud 0x0F000000) fresh) = some (none, 0x00800000, false, [.setParams 0]) := by decide
/-- I7: W1C cannot clear TDRE, and RDRF is outside the subset. -/
theorem test_wrUartStat : uartView (exec (.wrUartStat 0xFFFFFFFF) (uartWith 0x00800000 0 false))
      = some (none, 0x00800000, true, [])
    ∧ uartView (exec (.wrUartStat 0xFFFFFFFF) (uartWith 0 0x42 true)) = some (none, 0x00A00000, false, []) := by decide
/-- 1.7, first row of the sequences: TIE raises the line. -/
theorem test_wrUartCtrl : uartView (exec (.wrUartCtrl 0x00800000) fresh)
    = some (none, 0x00800000, true, [.irqEdge .uart true]) := by decide
/-- U18. -/
theorem test_wrUartCtrl_falls : uartView (exec (.wrUartCtrl 0x00040000) (uartWith 0x00240000 0x10 true))
    = some (none, 0x00A00000, false, [.irqEdge .uart false]) := by decide
/-- U10. -/
theorem test_wrUartData : uartView (exec (.wrUartData 0x1FF) (uartWith 0x00080000 0 false))
    = some (none, 0x00800000, false, [.txByte 0xFF]) := by decide
/-- U9. -/
theorem test_wrUartData_off : gives fresh (exec (.wrUartData 0x41) fresh) = true := by decide
/-- I4 and I5. -/
theorem test_rstUart : uartView (exec .rstUart (uartWith 0x00800000 0x42 true))
      = some (none, 0x00800000, false, [.irqEdge .uart false])
    ∧ gives fresh (exec .rstUart fresh) = true := by decide
/-- U16. -/
theorem test_evUartRxbyte : uartView (exec (.evUartRxbyte 0x10) (uartWith 0x00240000 0 false))
    = some (none, 0x00A00000, true, [.irqEdge .uart true]) := by decide
/-- U14 and U15: dropped, and the cell keeps its byte. -/
theorem test_evUartRxbyte_dropped : gives fresh (exec (.evUartRxbyte 0x42) fresh) = true
    ∧ gives (uartWith 0x00040000 0x42 true) (exec (.evUartRxbyte 0x43) (uartWith 0x00040000 0x42 true)) = true := by decide
/-- B1 and B4. -/
theorem test_rdUartUnmapped : uartView (exec (.rdUartUnmapped 0) fresh)
      = some (some 0, 0x00800000, false, [.diag .unimplementedOffsetRead 0])
    ∧ uartView (exec (.rdUartUnmapped 0x40) fresh)
      = some (some 0, 0x00800000, false, [.diag .outOfRangeOffsetRead 0x40]) := by decide
/-- B3 and B5. -/
theorem test_wrUartUnmapped : uartView (exec (.wrUartUnmapped 0x24 5) fresh)
      = some (none, 0x00800000, false, [.diag .unimplementedOffsetWrite 0x24])
    ∧ uartView (exec (.wrUartUnmapped 0x1000 1) fresh)
      = some (none, 0x00800000, false, [.diag .outOfRangeOffsetWrite 0x1000]) := by decide
/-- U8: the clock is sampled at the write. -/
theorem test_setClock : uartView (exec (.wrUartBaud 0x0F000008) { fresh with clockHz := 72000000 })
    = some (none, 0x00800000, false, [.setParams 562500]) := by decide

/-! ### The LPSPI registers, one step each -/

/-- 1.1: the constants after reset. -/
theorem test_spi_reset_reads :
    value (exec .rdSpiVerid fresh) = some 0x01000004 ∧ value (exec .rdSpiParam fresh) = some 0x00000202
      ∧ value (exec .rdSpiCr fresh) = some 0 ∧ value (exec .rdSpiSr fresh) = some 1 ∧ value (exec .rdSpiIer fresh) = some 0
      ∧ value (exec .rdSpiDer fresh) = some 0 ∧ value (exec .rdSpiCfgr0 fresh) = some 0
      ∧ value (exec .rdSpiCfgr1 fresh) = some 0 ∧ value (exec .rdSpiCcr fresh) = some 0
      ∧ value (exec .rdSpiFcr fresh) = some 0 ∧ value (exec .rdSpiFsr fresh) = some 0
      ∧ value (exec .rdSpiTcr fresh) = some 0 ∧ value (exec .rdSpiTdr fresh) = some 0
      ∧ value (exec .rdSpiRsr fresh) = some 2 ∧ value (exec .rdSpiRdr fresh) = some 0 := by decide
/-- S12, S13, S7 and B15: reads after 1.5 step 9. -/
theorem test_spi_full_reads :
    value (exec .rdSpiRsr bothFull) = some 0 ∧ value (exec .rdSpiFsr bothFull) = some 0x00040004
      ∧ value (exec .rdSpiSr bothFull) = some 0x01000002 ∧ value (exec .rdSpiTdr bothFull) = some 0
      ∧ value (exec .rdSpiCr bothFull) = some 1 := by decide
/-- B10 and B11. -/
theorem test_wrSpi_readOnly_constants :
    spiView (exec (.wrSpiVerid 0) fresh) = some (none, 0, 1, [.diag .readOnlyWrite 0x00])
      ∧ spiView (exec (.wrSpiParam 0xFFFFFFFF) fresh) = some (none, 0, 1, [.diag .readOnlyWrite 0x04]) := by decide
/-- B12. -/
theorem test_wrSpiFsr : spiView (exec (.wrSpiFsr 0x00040004) fresh)
    = some (none, 0, 1, [.diag .readOnlyWrite 0x5C]) := by decide
/-- B13 and B14. -/
theorem test_wrSpi_readOnly_rsr_rdr :
    spiView (exec (.wrSpiRsr 0) fresh) = some (none, 0, 1, [.diag .readOnlyWrite 0x70])
      ∧ spiView (exec (.wrSpiRdr 1) fresh) = some (none, 0, 1, [.diag .readOnlyWrite 0x74])
      ∧ sameBlocks fresh (exec (.wrSpiRsr 0) fresh) = true := by decide
/-- S2 and S3: RST wins over RSTF and MEN; RSTF empties both FIFOs, and the written value is stored. -/
theorem test_wrSpiCr :
    gives fresh (exec (.wrSpiCr 0x203) (spiWith 4 1 0 0 [1, 2] rxFull [])) = true
      ∧ gives (spiWith 4 0x201 0 0 [] [] []) (exec (.wrSpiCr 0x201) (spiWith 4 1 0 0 [1, 2] rxFull [])) = true := by decide
/-- S7. -/
theorem test_wrSpiSr : gives bothFull (exec (.wrSpiSr 0x01000003) bothFull) = true := by decide
/-- I1 and I3: only IER bits 0 and 1 reach the line. -/
theorem test_wrSpiIer : spiView (exec (.wrSpiIer 1) fresh) = some (none, 0, 1, [.irqEdge .spi true])
    ∧ spiView (exec (.wrSpiIer 0x01000000) (spiWith 4 0 1 0 [] [] [])) = some (none, 0, 1, [.irqEdge .spi false]) := by decide
/-- S8. -/
theorem test_wrSpi_storage :
    gives { fresh with spi := { fresh.spi with der := 3 } } (exec (.wrSpiDer 3) fresh) = true
      ∧ gives { fresh with spi := { fresh.spi with cfgr0 := 0x12345678 } } (exec (.wrSpiCfgr0 0x12345678) fresh) = true
      ∧ gives { fresh with spi := { fresh.spi with cfgr1 := 1 } } (exec (.wrSpiCfgr1 1) fresh) = true
      ∧ gives { fresh with spi := { fresh.spi with ccr := 0x04030201 } } (exec (.wrSpiCcr 0x04030201) fresh) = true
      ∧ gives { fresh with spi := { fresh.spi with fcr := 0x00030001 } } (exec (.wrSpiFcr 0x00030001) fresh) = true := by decide
/-- S9: with MEN = 0 the value is only stored. -/
theorem test_wrSpiTcr_off : 
    gives (spiWith 4 0 0 0x0200001F [] [] []) (exec (.wrSpiTcr 0x0200001F) fresh) = true := by decide
/-- 42_lpspi_registers.md R160: a line that is low is released, in order, and then the IRQ edge. -/
theorem test_rstSpi : spiView (exec .rstSpi odd) = some (none, 0, 1, [.csLevel 1 true, .irqEdge .spi false]) := by decide
/-- B6 and B8. -/
theorem test_rdSpiUnmapped : spiView (exec (.rdSpiUnmapped 0x08) fresh)
      = some (some 0, 0, 1, [.diag .unimplementedOffsetRead 0x08])
    ∧ spiView (exec (.rdSpiUnmapped 0x78) fresh) = some (some 0, 0, 1, [.diag .unimplementedOffsetRead 0x78]) := by decide
/-- B7 and B9. -/
theorem test_wrSpiUnmapped : spiView (exec (.wrSpiUnmapped 0x68 0xFFFFFFFF) fresh)
      = some (none, 0, 1, [.diag .unimplementedOffsetWrite 0x68])
    ∧ spiView (exec (.wrSpiUnmapped 0x80 5) fresh) = some (none, 0, 1, [.diag .outOfRangeOffsetWrite 0x80]) := by decide

/-! ### The transfer engine, one step each -/

/-- 1.4 step 5, and P3 step 5: the edge of RDF follows the line's release. -/
theorem test_wrSpiTdr :
    spiView (exec (.wrSpiTdr 0x44444444) (spiWith 4 1 0 0 [] [0x11111111, 0x22222222, 0x33333333] [0x44444444]))
        = some (none, 0x00040000, 0x00000003,
            [.csLevel 0 false, .exchange 0 0x44444444 0x44444444, .csLevel 0 true])
      ∧ spiView (exec (.wrSpiTdr 0x0000FFFF) (spiWith 4 1 2 0x02000000 [] [] [0xFFFF0000]))
        = some (none, 0x00010000, 0x00000003,
            [.csLevel 2 false, .exchange 2 0x0000FFFF 0xFFFF0000, .csLevel 2 true, .irqEdge .spi true]) := by decide
/-- S1 and 1.5 step 10. -/
theorem test_wrSpiTdr_rejected :
    spiView (exec (.wrSpiTdr 1) fresh) = some (none, 0, 1, [.diag .moduleDisabled 0x64])
      ∧ spiView (exec (.wrSpiTdr 0x99999999) bothFull)
        = some (none, 0x00040004, 0x01000002, [.diag .txFifoFull 0x64]) := by decide
/-- T3 (NUM_CS = 2, PCS 3) and T15 (NUM_CS = 0), from the burst on: the word stays queued. -/
theorem test_burst_badChipSelect :
    ((spiWith 2 1 0 0x03000000 [0xA0A0A0A0] [] []).spi.burst { config with numCs := 2 } 0x64).trace
        = [.diag .badChipSelect 0x64]
      ∧ ((spiWith 0 1 0 0 [5] [] []).spi.burst { config with numCs := 0 } 0x64).tx = fifoOfWords [5] := by decide
/-- T2 and T6. -/
theorem test_wrSpiTcr :
    spiView (exec (.wrSpiTcr 0x03000000) (spiWith 2 1 0 0 [] [] [])) = some (none, 0, 1, [])
      ∧ spiView (exec (.wrSpiTcr 0) (spiWith 2 1 0 0x03000000 [0xA0A0A0A0, 0xB0B0B0B0, 0xC0C0C0C0] []
            [0xA0A0A0A0, 0xB0B0B0B0, 0xC0C0C0C0]))
        = some (none, 0x00030000, 0x00000003,
            [.csLevel 0 false, .exchange 0 0xA0A0A0A0 0xA0A0A0A0, .exchange 0 0xB0B0B0B0 0xB0B0B0B0,
              .exchange 0 0xC0C0C0C0 0xC0C0C0C0, .csLevel 0 true]) := by decide
/-- T13. -/
theorem test_rdSpiRdr : spiView (exec .rdSpiRdr bothFull)
    = some (some 0x11111111, 0x00040003, 0x01000003,
        [.csLevel 0 false, .exchange 0 0x55555555 0x55555555, .csLevel 0 true]) := by decide
/-- T10: with MEN = 0 no burst. -/
theorem test_rdSpiRdr_off : spiView (exec .rdSpiRdr (spiWith 2 0 0 0x01000000 [0xE0E0E0E0]
      [0xA0A0A0A0, 0xB0B0B0B0, 0xC0C0C0C0, 0xD0D0D0D0] []))
    = some (some 0xA0A0A0A0, 0x00030001, 0x01000003, []) := by decide
/-- T11: a CR write never starts a burst. -/
theorem test_wrSpiCr_noBurst : spiView (exec (.wrSpiCr 1) (spiWith 2 0 0 0x01000000 [0xE0E0E0E0]
      [0xB0B0B0B0, 0xC0C0C0C0, 0xD0D0D0D0] []))
    = some (none, 0x00030001, 0x01000003, []) := by decide
/-! ### Levels, refusals, host programs -/

/-- 1.7: the truth table of both levels, over enable and status bits. -/
theorem test_irq_levels : ∀ a s b t : Bool,
    irqLevel ((if s then bit 21 else 0) ||| (if t then bit 23 else 0)) ((if a then bit 21 else 0) ||| (if b then bit 23 else 0))
        uartIrqMask = ((a && s) || (b && t))
      ∧ irqLevel ((if s then bit 1 else 0) ||| (if t then bit 0 else 0)) ((if a then bit 1 else 0) ||| (if b then bit 0 else 0))
        spiIrqMask = ((a && s) || (b && t)) := by decide
/-- B16 to B25. -/
theorem test_refusals :
    refusal (exec (decode ⟨0x00000014, 0⟩) fresh) = some .subwordAccess
      ∧ refusal (exec (decode ⟨0xA8000064, 0x1234⟩) fresh) = some .subwordAccess
      ∧ refusal (exec (decode ⟨0x10000016, 0⟩) fresh) = some .misalignedAccess
      ∧ refusal (exec (decode ⟨0x10000015, 0⟩) fresh) = some .misalignedAccess
      ∧ refusal (exec (decode ⟨0x70000010, 0⟩) fresh) = some .reservedDescriptor
      ∧ refusal (exec (decode ⟨0x11000010, 0⟩) fresh) = some .reservedDescriptor
      ∧ refusal (exec (decode ⟨0x12000010, 0⟩) fresh) = some .reservedDescriptor
      ∧ refusal (exec (decode ⟨0x14000010, 0⟩) fresh) = some .reservedDescriptor
      ∧ refusal (exec (decode ⟨0x18000010, 0⟩) fresh) = some .reservedDescriptor
      ∧ refusal (exec (decode ⟨0x40000002, 0⟩) fresh) = some .reservedDescriptor := by decide
/-- 1.2 as `WRF`, P1 step 5 as `POLL`, and 70_reset_and_hazards.md R270 as `SETB`. -/
theorem test_host_programs :
    wrfValue [(.osr, 15), (.sbr, 8)] = 0x0F000008 ∧ wrfNames (.uart .baud) [(.osr, 15), (.sbr, 8)] = true
      ∧ wrfNames (.uart .ctrl) [(.sbr, 8)] = false
      ∧ value (poll (.uart .stat) 0x00200000 0x00200000 3 (uartWith 0x002C0000 0x68 true)) = some 0x00A00000
      ∧ gives fresh (setb (.uart .stat) 1 fresh) = true
      ∧ gives (uartWith 0x000C0000 0 false) (setb (.uart .ctrl) 0x00080000 (uartWith 0x00040000 0 false)) = true := by decide
/-- R106: a value too wide for SBR leaves the unnamed bit above it 0. -/
theorem test_wrf_keeps_to_its_field : (wrfValue [(.sbr, 0x2000)]).getLsbD 13 = false :=
  getLsbD_wrfValue_of_outside _ _ (by decide)
/-- 00_scope.md R11: an access named by its guest address. -/
theorem test_guest_addresses :
    (memRead 0x1014 4 fresh).map value = some (some 0x00800000) ∧ (memRead 0x2070 4 fresh).map value = some (some 2)
      ∧ (memRead 0x1040 4 fresh).isNone = true
      ∧ (memWrite 0x2010 4 1 fresh).map spiView = some (some (none, 0, 1, [])) := by decide
/-- One step of the machine runs the placed call, from `fresh` and from the reset machine. -/
theorem test_step : 
    gives { fresh with result := some 0 } (step (fresh.withFetchWord 64 0x0000000190000018)) = true
    ∧ value (step (State.reset.withFetchWord 32 0x10000014)) = some 0x00800000 := by decide

/-! ### Witnesses: for each statement with hypotheses, a state and operands that meet them; several for several clauses -/

/-- The smallest and the largest legal parameters (00_scope.md R8). -/
theorem witness_CreationIsQuiescent : config.legal = true
    ∧ { config with
        txFifoWords := 1, rxFifoWords := 31, uartRegionBytes := 0x20, spiRegionBytes := 0x78, numCs := 0 }.legal = true
    ∧ { config with txFifoWords := 32 }.legal = false ∧ { config with rxFifoWords := 0 }.legal = false := by decide

/-- Quiescent states of every kind: fresh, full LPUART cell, high lines, full FIFOs, no line at all. -/
theorem witness_Quiescent : fresh.Quiescent ∧ (uartWith 0x00A40000 0x42 true).Quiescent
    ∧ bothFull.Quiescent ∧ (spiWith 4 0 3 0 txFull rxFull []).Quiescent ∧ (spiWith 0 0 0 0 [] [] []).Quiescent :=
  ⟨by decide, by decide, by decide, by decide, by decide⟩

theorem witness_EveryStepKeepsQuiescence :
    ∃ t, bothFull.Quiescent ∧ step { bothFull with pending := [.call ⟨0x90000074, 0⟩] } = .next t
      ∧ t.spi.trace ≠ [] ∧ ∃ u, step fresh = .next u ∧ ∃ w, step { fresh with pending := [.setClock 1] } = .next w
      ∧ w.clockHz = 1 := ⟨_, by decide, rfl, by decide, _, rfl, _, rfl, rfl⟩

/-- A state that is not quiescent meets the hypotheses. -/
theorem witness_StatusFollowsTheFifosAfterEveryLpspiCall :
    ∃ t, blockOf .rdSpiSr = .spi ∧ ¬ odd.Quiescent ∧ exec .rdSpiSr odd = .next t ∧ t.spi.sr = 0xFFFFFFFD :=
  ⟨_, rfl, by decide, rfl, by decide⟩

theorem witness_AnIrqEdgeExactlyWhenTheLineChanges :
    ∃ t, fresh.Quiescent ∧ exec (.wrSpiIer 1) fresh = .next t ∧ newSpiEvents fresh t = [.irqEdge .spi true]
      ∧ newUartEvents fresh t = [] := ⟨_, by decide, rfl, by decide, by decide⟩

theorem witness_TieHoldsTheUartLineHigh :
    ∃ t u, (uartWith 0x00800000 0 false).Quiescent ∧ (uartWith 0x00800000 0 false).uart.tie = true
      ∧ exec (.wrUartCtrl 0) (uartWith 0x00800000 0 false) = .next t ∧ t.uart.irq = false
      ∧ exec .rstUart (uartWith 0x00800000 0 false) = .next u ∧ u.uart.irq = false :=
  ⟨_, _, by decide, by decide, rfl, by decide, rfl, by decide⟩

/-- The hypothesis of the LPUART register statements, for both values of STAT; the written value reads back in a next state. -/
theorem witness_UartStoredRegistersReadBack : fresh.uart.Quiescent ∧ fresh.uart.stat = 0x00800000
    ∧ (uartWith 0 0x42 true).uart.Quiescent ∧ (uartWith 0 0x42 true).uart.stat = 0x00A00000
    ∧ ∃ t u, exec (.wrUartBaud 7) fresh = .next t ∧ exec (.wrUartCtrl 7) fresh = .next u :=
  ⟨by decide, by decide, by decide, by decide, _, _, rfl, rfl⟩

theorem witness_UartDataReadReturnsTheCellAndClearsRdrf :
    (uartWith 0x00240000 0x42 true).uart.Quiescent ∧ (uartWith 0x00240000 0x42 true).uart.irq = true := by decide

/-- A divisor of 0, the smallest and the largest divisors. -/
theorem witness_UartBaudWriteStoresAndReportsTheRate : fresh.uart.Quiescent
    ∧ (0x0F000000 : Word).toNat % 8192 = 0 ∧ (0x00000001 : Word).toNat % 8192 ≠ 0
    ∧ (0x1F001FFF : Word).toNat % 8192 = 8191 := by decide

theorem witness_UartStatWriteClearsNothingSoftwareCanSee :
    (uartWith 0x00800000 0x42 true).uart.Quiescent ∧ ¬ { fresh.uart with stat := 0xFFFFFFFF }.Quiescent := by decide

theorem witness_UartCtrlWriteStoresAndMovesTheLine : (uartWith 0x00240000 0x10 true).uart.Quiescent := by decide

theorem witness_UartDataWriteSendsOneByteWhenEnabled :
    (uartWith 0x00080000 0 false).uart.Quiescent ∧ (uartWith 0x00080000 0 false).uart.te = true
      ∧ fresh.uart.te = false := by decide

/-- RE set and empty; RE clear; full. -/
theorem witness_UartByteIsTakenOnlyWhenThereIsRoom :
    (uartWith 0x00040000 0 false).uart.Quiescent ∧ (uartWith 0x00040000 0 false).uart.canReceive = true
      ∧ fresh.uart.canReceive = false ∧ (uartWith 0x00040000 0x42 true).uart.Quiescent
      ∧ (uartWith 0x00040000 0x42 true).uart.canReceive = false := by decide

theorem witness_RdrfIsTheFullnessOfTheCell :
    ∃ t u v, (uartWith 0x00040000 0 false).Quiescent
      ∧ exec (.evUartRxbyte 0x42) (uartWith 0x00040000 0 false) = .next t ∧ t.uart.rdrf = true ∧ t.uart.rxCell ≠ 0
      ∧ exec .rdUartData (uartWith 0x00040000 0x42 true) = .next u ∧ u.uart.rdrf = false
      ∧ exec .rstUart (uartWith 0x00040000 0x42 true) = .next v ∧ v.uart.rdrf = false ∧ v.uart.rxCell ≠ 0x42 :=
  ⟨_, _, _, by decide, rfl, by decide, by decide, rfl, by decide, rfl, by decide, by decide⟩

theorem witness_UartReturnsTheByteItTook :
    (uartWith 0x00040000 0 false).Quiescent ∧ (uartWith 0x00040000 0 false).uart.canReceive = true := by decide

/-- The hypothesis of the LPSPI register statements, with empty and with full FIFOs. -/
theorem witness_SpiStoredRegistersRead : fresh.Quiescent ∧ fresh.spi.rx = []
    ∧ bothFull.Quiescent ∧ bothFull.spi.rx ≠ [] := by decide

theorem witness_SpiConstantAndStorageRegistersRead : bothFull.Quiescent := by decide

/-- A line that the written enables raise, and one that they lower. -/
theorem witness_SpiIerWriteStoresAndMovesTheLine : fresh.Quiescent ∧ fresh.spi.irq = false
    ∧ (spiWith 4 0 3 0 txFull rxFull []).Quiescent ∧ (spiWith 4 0 3 0 txFull rxFull []).spi.irq = true := by decide

theorem witness_SpiStorageWritesHaveNoOtherEffect : bothFull.Quiescent := by decide

theorem witness_SpiReadOnlyWritesAreDropped : bothFull.Quiescent := by decide

theorem witness_SpiFcrWriteHasNoOtherEffect : ∃ t, fresh.Quiescent ∧ exec (.wrSpiFcr 0x00030001) fresh = .next t :=
  ⟨_, by decide, rfl⟩

theorem witness_SpiSrWriteIsWriteOneToClear : bothFull.Quiescent ∧ ¬ odd.Quiescent := by decide

/-- RST; RSTF alone; neither. -/
theorem witness_SpiCrWriteResetsClearsOrStores : bothFull.Quiescent
    ∧ (0x203 : Word).getLsbD 1 = true ∧ (0xFFFFFFFD : Word).getLsbD 1 = false ∧ (0xFFFFFFFD : Word).getLsbD 9 = true
    ∧ (1 : Word).getLsbD 1 = false ∧ (1 : Word).getLsbD 9 = false := by decide

/-- A state with a line low. -/
theorem witness_SpiResetRestoresEveryField :
    odd.spi.cs.length = odd.config.numCs ∧ odd.config.legal = true ∧ odd.spi.cs ≠ List.replicate 4 true := by decide

theorem witness_ReadsAfterResetGiveTheDocumentedConstants :
    ∃ t u, odd.config.legal = true ∧ odd.spi.cs.length = odd.config.numCs ∧ exec .rstUart odd = .next t
      ∧ exec .rstSpi t = .next u := ⟨_, _, by decide, by decide, rfl, rfl⟩

theorem witness_PlainWritesAreIdempotent :
    ∃ t, fresh.Quiescent ∧ exec (.wrUartCtrl 0x00800000) fresh = .next t ∧ t.uart.trace = [.irqEdge .uart true] :=
  ⟨_, by decide, rfl, by decide⟩

theorem witness_ModuleStatesAreReadOffMenAndTx :
    (∃ t, (2 : Word).getLsbD 1 = true ∧ exec (.wrSpiCr 2) bothFull = .next t) ∧
    fresh.Quiescent ∧ fresh.spi.moduleState = .disabled
      ∧ (spiWith 4 0 0 0 [1] [] []).Quiescent ∧ (spiWith 4 0 0 0 [1] [] []).spi.moduleState = .disabledStalled
      ∧ (spiWith 4 1 0 0 [] [] []).Quiescent ∧ (spiWith 4 1 0 0 [] [] []).spi.moduleState = .idle
      ∧ bothFull.Quiescent ∧ bothFull.spi.moduleState = .busy :=
  ⟨⟨_, rfl, rfl⟩, by decide⟩

/-- Disabled; held back by an empty tx and by a full rx; the first bad index; the last good index with one word to send and room
for exactly one. -/
theorem witness_BurstMovesTheWordsItCan : config.legal = true
    ∧ (spiWith 4 0 0 0 [1] [] []).Quiescent ∧ (spiWith 4 1 0 0 [] [] []).Quiescent ∧ bothFull.Quiescent
    ∧ (spiWith 3 1 0 0x03000000 [1] [] []).Quiescent ∧ pcsOf 0x03000000 = 3
    ∧ (spiWith 4 1 0 0x03000000 [1] [1, 2, 3] []).Quiescent
    ∧ burstWords config (spiWith 4 1 0 0x03000000 [1] [1, 2, 3] []).spi = 1 :=
  ⟨by decide, by decide, by decide, by decide, by decide, by decide, by decide, by decide⟩

theorem witness_SpiTcrWriteStoresThenBursts : fresh.Quiescent ∧ fresh.spi.men = false
    ∧ (spiWith 2 1 0 0x03000000 [1] [] []).Quiescent ∧ (spiWith 2 1 0 0x03000000 [1] [] []).spi.men = true := by decide

/-- MEN clear; tx full; room for exactly one word. -/
theorem witness_SpiTdrWriteQueuesThenBursts : fresh.Quiescent ∧ fresh.spi.men = false
    ∧ bothFull.Quiescent ∧ bothFull.spi.men = true ∧ free config.txCap bothFull.spi.tx < 4
    ∧ (spiWith 4 1 0 0 [1, 2, 3] rxFull []).Quiescent
    ∧ free config.txCap (spiWith 4 1 0 0 [1, 2, 3] rxFull []).spi.tx = 4 := by decide

theorem witness_SpiRdrReadPopsThenBursts : fresh.Quiescent ∧ fresh.spi.rx = [] ∧ bothFull.Quiescent
    ∧ bothFull.spi.rx = fifoOfWords (0x11111111 :: [0x22222222, 0x33333333, 0x44444444]) := by decide

theorem witness_TheAnswerToAWordSentIsTheWordRead :
    let s := spiWith 4 1 3 0x03000000 [] [] [0xFFFF0000]
    s.Quiescent ∧ s.spi.men = true ∧ s.spi.tx = [] ∧ s.spi.rx = [] ∧ pcsOf s.spi.tcr < s.config.numCs
      ∧ s.spi.peerAnswers = 0xFFFF0000 :: [] := by decide

theorem witness_BackPressureQueuesTheWord :
    let s := spiWith 4 1 0 0 [1, 2, 3] rxFull []
    s.Quiescent ∧ s.spi.men = true ∧ free s.config.rxCap s.spi.rx < 4 ∧ 4 ≤ free s.config.txCap s.spi.tx := by decide

/-- Each of the three calls exchanges a word in some quiescent state. -/
theorem witness_OnlyThreeCallsExchangeWords :
    ∃ t u v, (spiWith 4 1 0 0 [] [] [9]).Quiescent ∧ exec (.wrSpiTdr 5) (spiWith 4 1 0 0 [] [] [9]) = .next t
      ∧ (newSpiEvents (spiWith 4 1 0 0 [] [] [9]) t).any isExchange = true
      ∧ (spiWith 2 1 0 0x03000000 [1] [] [9]).Quiescent ∧ exec (.wrSpiTcr 0) (spiWith 2 1 0 0x03000000 [1] [] [9]) = .next u
      ∧ (newSpiEvents (spiWith 2 1 0 0x03000000 [1] [] [9]) u).any isExchange = true
      ∧ bothFull.Quiescent ∧ exec .rdSpiRdr bothFull = .next v ∧ (newSpiEvents bothFull v).any isExchange = true :=
  ⟨_, _, _, by decide, rfl, by decide, by decide, rfl, by decide, by decide, rfl, by decide⟩

/-- A call that moves a line and a call that moves none. -/
theorem witness_ALineMovesLowThenHighOnceOrNotAtAll :
    ∃ t u, bothFull.Quiescent ∧ exec .rdSpiRdr bothFull = .next t
      ∧ (newSpiEvents bothFull t).filter isCsLevel = [.csLevel 0 false, .csLevel 0 true]
      ∧ exec .rdSpiSr bothFull = .next u ∧ (newSpiEvents bothFull u).filter isCsLevel = [] :=
  ⟨_, _, by decide, rfl, by decide, rfl, by decide⟩

/-- The first and the last unmapped offsets inside the regions. -/
theorem witness_UnmappedOffsetsReadZeroAndDropWrites : fresh.Quiescent
    ∧ isMapped .uart (0x00 : Offset).toNat = false ∧ isMapped .uart (0x3C : Offset).toNat = false
    ∧ (0x3C : Offset).toNat < fresh.config.uartRegionBytes
    ∧ isMapped .spi (0x08 : Offset).toNat = false ∧ isMapped .spi (0x7C : Offset).toNat = false
    ∧ (0x7C : Offset).toNat < fresh.config.spiRegionBytes := by decide

/-- The first and the last offsets beyond the regions. -/
theorem witness_OutOfRangeOffsetsReadZeroAndDropWrites : fresh.Quiescent
    ∧ (0x40 : Offset).toNat % 4 = 0 ∧ fresh.config.uartRegionBytes ≤ (0x40 : Offset).toNat
    ∧ (0x80 : Offset).toNat % 4 = 0 ∧ fresh.config.spiRegionBytes ≤ (0x80 : Offset).toNat
    ∧ (0xFFFFFC : Offset).toNat % 4 = 0 ∧ fresh.config.spiRegionBytes ≤ (0xFFFFFC : Offset).toNat := by decide

theorem witness_EveryCallButARefusedOneReturns :
    isRefusalRow .rstSpi = false ∧ isRefusalRow (.subword .uart .read .byte 0x14) = true := by decide

/-- A byte read, whose value is returned, and a word that is turned away. -/
theorem witness_TheTwoBlocksShareNoState :
    ∃ t u t' u', blockOf .rdUartData = .uart ∧ blockOf (.wrSpiTdr 5) = .spi
      ∧ exec .rdUartData (uartWith 0x00040000 0x42 true) = .next t ∧ exec (.wrSpiTdr 5) t = .next u
      ∧ exec (.wrSpiTdr 5) (uartWith 0x00040000 0x42 true) = .next t' ∧ exec .rdUartData t' = .next u'
      ∧ t.result = some 0x42 := ⟨_, _, _, _, rfl, rfl, rfl, rfl, rfl, rfl, by decide⟩

/-- A register of each class, a write with and without RST, and a state that is not quiescent with W1C bits set. -/
theorem witness_AccessClassesReadAndWriteAsDeclared : bothFull.Quiescent ∧ ¬ odd.Quiescent
    ∧ classOf (.spi .cr) = .rw ∧ isRstWrite (.spi .cr) 2 = true ∧ isRstWrite (.spi .cr) 1 = false
    ∧ classOf (.spi .rdr) = .ro ∧ bothFull.spi.rx ≠ [] ∧ classOf (.uart .stat) = .w1c statW1cMask
    ∧ classOf (.spi .tdr) = .wo ∧ classOf (.uart .data) = .handlers := by decide

/-- Fields of the register, two that fill it up to its last bit and one value too wide; a field of another register; one twice. -/
theorem witness_WrfPlacesNamedFieldsAndZeroElsewhere :
    ((∀ p ∈ [(Field.osr, 31), (.sbr, 8191)], fieldReg p.1 = .uart .baud) ∧ (Field.osr ≠ .sbr)
      ∧ 31 < 2 ^ fieldWidth .osr ∧ 8191 < 2 ^ fieldWidth .sbr ∧ ¬ 0x2000 < 2 ^ fieldWidth .sbr)
      ∧ fieldReg .men ≠ .uart .baud ∧ ¬ [Field.osr, .osr].Nodup := by decide

theorem witness_NoCallChangesParametersOrInputs :
    ∃ t, exec .rstSpi { odd with pending := [.setClock 1] } = .next t ∧ t.pending = [.setClock 1] := ⟨_, rfl, rfl⟩

/-- A call with one diagnostic. -/
theorem witness_ACallAppendsAtMostOneDiagnostic :
    ∃ t, exec (.wrSpiTdr 1) fresh = .next t ∧ (newSpiEvents fresh t).countP isDiag = 1 := ⟨_, rfl, by decide⟩

theorem witness_ReadModifyWriteOfAW1cRegisterChangesNothing : bothFull.Quiescent := by decide

theorem witness_APollThatFailsOnceFailsForEver : fresh.Quiescent
    ∧ fresh.uart.stat &&& 0x00200000 ≠ 0x00200000 ∧ fresh.spi.sr &&& 2 ≠ 2 := by decide

theorem witness_DecodeOfEncodeIsTheInstruction : (Instr.rdUartUnmapped 0xFFFFFC).wellFormed = true
    ∧ (Instr.misalignedB0 .spi .write 0xFFFFFF).wellFormed = true ∧ (Instr.misalignedB1 .spi .write 2).wellFormed = true
    ∧ (Instr.evReserved .uart 0 2).wellFormed = true := by decide

/-- The lengths next to eight. -/
theorem witness_CallRecordsDecodeFromBytes :
    (List.replicate 7 (0 : Byte)).length ≠ 8 ∧ (List.replicate 9 (0 : Byte)).length ≠ 8 := by decide

theorem witness_AStepRunsTheNextCall :
    ({ fresh with pending := [.call ⟨0xC0000000, 0⟩, .setClock 1] } : State).pending
      = .call ⟨0xC0000000, 0⟩ :: [.setClock 1] := rfl

theorem witness_IdleAndClockSteps : fresh.pending = []
    ∧ ({ fresh with pending := [.setClock 0] } : State).pending = .setClock 0 :: [] := ⟨rfl, rfl⟩

end Sys2Proof.Tests
end

namespace Sys2Proof.Machine

/-! ## What a step does, by the head of the pending list -/

/-- No work begins on its own (00_scope.md R2). -/
theorem step_of_pending_nil {s : State} (h : s.pending = []) : step s = .next s := by
  simp only [step, h]

/-- A clock change is an input change only: the rate is not computed again until the next BAUD write (decision D14). -/
theorem step_of_pending_setClock {s : State} {hz : Nat} {rest : List HostAction} (h : s.pending = .setClock hz :: rest) :
    step s = .next { s with clockHz := hz, pending := rest } := by
  simp only [step, h]

/-- Settles O56, by the equations of step for an empty list and for a clock change at its head. -/
theorem idleAndClockSteps : Obligations.IdleAndClockSteps :=
  fun _ _ _ => ⟨step_of_pending_nil, step_of_pending_setClock⟩

end Sys2Proof.Machine

namespace Sys2Proof.Machine

/-! ## Quiescence: what a rule has to keep for the dispatcher to end at a quiescent point (10_state.md R29, R30, R44, R60) -/

/-- STAT is one of the two words of 10_state.md R29. The level of the line is not asked for, so this can hold between a rule
and its IrqUpdate. -/
def Uart.StatLegal (u : Uart) : Prop := u.stat = 0x00800000 ∨ u.stat = 0x00A00000

/-- What a rule of the LPSPI leaves to UpdateStatus and IrqUpdate: the invariants of a quiescent point without the derived
registers and the line. -/
structure Spi.Settleable (c : Config) (p : Spi) : Prop where
  txWords : p.tx.length % 4 = 0
  rxWords : p.rx.length % 4 = 0
  txCap : p.tx.length ≤ c.txCap
  rxCap : p.rx.length ≤ c.rxCap
  lines : p.cs = List.replicate c.numCs true
  rstClear : p.cr.getLsbD 1 = false
  srClean : p.SrClean

/-! ### The LPUART -/

@[simp] theorem Uart.irqUpdate_stat (u : Uart) : u.irqUpdate.stat = u.stat := by rw [Uart.irqUpdate_eq]

@[simp] theorem Uart.irqUpdate_rxCell (u : Uart) : u.irqUpdate.rxCell = u.rxCell := by rw [Uart.irqUpdate_eq]

theorem getLsbD_w1cWrite (mask v reg : Word) (j : Nat) (hj : j < 32) :
    (w1cWrite mask v reg).getLsbD j = (reg.getLsbD j && !(v.getLsbD j && mask.getLsbD j)) := by
  simp only [w1cWrite, BitVec.getLsbD_and, BitVec.getLsbD_not, hj, decide_true, Bool.true_and]

theorem Uart.StatLegal.irqUpdate_quiescent {u : Uart} (h : u.StatLegal) : u.irqUpdate.Quiescent := by
  rw [Uart.irqUpdate_eq]
  exact ⟨h, u.level_eq_terms⟩

theorem Uart.StatLegal.setTdre {u : Uart} (h : u.StatLegal) : (u.setTdre true).StatLegal := by
  unfold Uart.StatLegal
  rw [Uart.setTdre_stat]
  rcases h with h | h <;> rw [h] <;> decide

theorem Uart.StatLegal.setRdrf {u : Uart} (h : u.StatLegal) (b : Bool) : (u.setRdrf b).StatLegal := by
  unfold Uart.StatLegal
  rw [Uart.setRdrf_stat]
  rcases h with h | h <;> rw [h] <;> cases b <;> decide

/-- No bit of a legal STAT but TDRE and RDRF is set, and those two are outside the mask of a STAT write. -/
theorem Uart.StatLegal.w1cWrite_eq {u : Uart} (h : u.StatLegal) (v : Word) : w1cWrite statW1cMask v u.stat = u.stat := by
  have outside : u.stat &&& statW1cMask = 0 := by rcases h with h | h <;> rw [h] <;> decide
  apply BitVec.eq_of_getLsbD_eq
  intro j hj
  have bit_outside : (u.stat.getLsbD j && statW1cMask.getLsbD j) = false := by
    rw [← BitVec.getLsbD_and, outside]
    exact BitVec.getLsbD_zero
  rw [getLsbD_w1cWrite _ _ _ _ hj]
  cases hm : statW1cMask.getLsbD j <;> simp_all

theorem uartWriteStat_statLegal {u : Uart} (h : u.StatLegal) (v : Word) : (uartWriteStat v u).StatLegal := by
  refine Uart.StatLegal.setTdre ?_
  unfold Uart.StatLegal
  rw [h.w1cWrite_eq v]
  exact h

theorem uartWriteData_statLegal {u : Uart} (h : u.StatLegal) (v : Word) : (uartWriteData v u).StatLegal := by
  unfold uartWriteData
  split
  · exact Uart.StatLegal.setTdre h
  · exact h

theorem uartRxByte_quiescent {u : Uart} (h : u.StatLegal) (b : Byte) : (uartRxByte b u).Quiescent := by
  refine Uart.StatLegal.irqUpdate_quiescent ?_
  split
  · exact Uart.StatLegal.setRdrf h true
  · exact h

theorem Uart.created_quiescent (c : Config) : (Uart.created c).Quiescent :=
  ⟨.inl rfl, by simp [Uart.created, Uart.rie, Uart.tie]⟩

theorem Uart.reset_quiescent (c : Config) (u : Uart) : (u.reset c).Quiescent := by
  rw [Uart.reset_eq]
  exact Uart.created_quiescent c

/-! ### The LPSPI -/

theorem Spi.created_quiescent {c : Config} (hc : c.legal = true) : (Spi.created c).Quiescent c := by
  obtain ⟨htx, -⟩ := legal_caps hc
  have hfree : 4 ≤ free c.txCap [] := htx
  exact ⟨rfl, rfl, Nat.zero_le _, Nat.zero_le _, by simp [statusWord, Spi.created, hfree, used],
    by simp [Spi.created, countWord, used], rfl, rfl, by simp [spiLine, Spi.created], by simp [Spi.created]⟩

theorem Spi.Quiescent.settleable {c : Config} {p : Spi} (h : p.Quiescent c) : p.Settleable c := by
  have hclean := h.srClean
  obtain ⟨htxw, hrxw, htx, hrx, -, -, -, hcs, -, hrst⟩ := h
  exact ⟨htxw, hrxw, htx, hrx, hcs, hrst, hclean⟩

section
variable {c : Config} {p : Spi}

theorem Spi.Settleable.tx_le (h : p.Settleable c) (hc : c.legal = true) : p.tx.length ≤ 124 := by
  obtain ⟨-, hcap, -⟩ := legal_caps hc
  exact h.txCap.trans hcap

theorem Spi.Settleable.settled (h : p.Settleable c) : (p.settled c).Quiescent c :=
  p.settled_quiescent c h.txWords h.rxWords h.txCap h.rxCap h.lines h.rstClear

theorem Spi.Settleable.updateStatus_quiescent (h : p.Settleable c) (hc : c.legal = true) :
    (p.updateStatus c).irqUpdate.Quiescent c := by
  rw [Spi.settle c p h.srClean (h.tx_le hc)]
  exact h.settled

theorem Spi.Settleable.diag (h : p.Settleable c) (k : DiagKind) (off : Nat) : (p.diag k off).Settleable c :=
  ⟨h.txWords, h.rxWords, h.txCap, h.rxCap, h.lines, h.rstClear, h.srClean⟩

theorem Spi.Settleable.setMbf (h : p.Settleable c) : (p.setMbf true).Settleable c := by
  refine ⟨h.txWords, h.rxWords, h.txCap, h.rxCap, h.lines, h.rstClear, ?_⟩
  have hclean := h.srClean
  have mbfDerived : bit 24 &&& ~~~0x01000003#32 = 0 := by decide
  unfold Spi.SrClean at hclean ⊢
  simp only [Spi.setMbf_sr, setBit, if_true, BitVec.and_or_distrib_right, hclean, mbfDerived]
  exact BitVec.or_zero

theorem Spi.Settleable.pushTx (h : p.Settleable c) (v : Word) (hroom : ¬ free c.txCap p.tx < 4) :
    Spi.Settleable c { p with tx := pushWord p.tx v } := by
  have hlen : (pushWord p.tx v).length = p.tx.length + 4 := used_pushWord p.tx v
  have hwords := h.txWords
  unfold free used at hroom
  exact ⟨by simp only [hlen]; omega, h.rxWords, by simp only [hlen]; omega, h.rxCap, h.lines, h.rstClear, h.srClean⟩

/-- An RDR read takes its word off rx and keeps it in the mirror. -/
theorem Spi.Settleable.popRx (h : p.Settleable c) {w : Word} {rx' : List Byte} (hpop : popWord p.rx = some (w, rx')) :
    Spi.Settleable c { p with rx := rx', rdr := w } := by
  have hlen : p.rx.length = 4 + rx'.length := by
    rw [(popWord_eq_some p.rx w rx').1 hpop, List.length_append, fifoBytes_length]
  have hwords := h.rxWords
  have hcap := h.rxCap
  exact ⟨h.txWords, by simp only; omega, h.txCap, by simp only; omega, h.lines, h.rstClear, h.srClean⟩

/-- The words a burst moves leave tx in whole words and fit the room rx had for whole words (43_lpspi_transfer.md R213). -/
theorem Spi.Settleable.afterBurst (h : p.Settleable c) (line : Nat) {answers : List Word}
    (hlen : answers.length = burstWords c p) : (p.afterBurst c line answers).Settleable c := by
  have htxw := h.txWords
  have hrxw := h.rxWords
  have htx := h.txCap
  have hrx := h.rxCap
  have htx' : (p.afterBurst c line answers).tx.length = p.tx.length - 4 * burstWords c p := List.length_drop
  have hrx' : (p.afterBurst c line answers).rx.length = p.rx.length + 4 * burstWords c p := by
    simp [Spi.afterBurst, hlen]
  have hmoved : 4 * burstWords c p ≤ p.tx.length ∧ 4 * burstWords c p ≤ c.rxCap - p.rx.length := by
    unfold burstWords free used; omega
  exact ⟨by omega, by omega, by omega, by omega, h.lines, h.rstClear, h.srClean⟩

theorem Spi.Settleable.burst (h : p.Settleable c) (hc : c.legal = true) (off : Nat) : (p.burst c off).Settleable c := by
  obtain ⟨heq, -⟩ | ⟨heq, -⟩ | ⟨answers, heq, -, -, -, -, -, hlen, -⟩ :=
    Spi.burst_cases c off p h.txWords h.lines h.srClean (h.tx_le hc)
  · rwa [heq]
  · rw [heq]
    exact h.diag .badChipSelect off
  · rw [heq]
    exact (h.afterBurst _ hlen).settled.settleable

theorem Spi.Settleable.reset_quiescent (h : p.Settleable c) (hc : c.legal = true) : (p.reset c).Quiescent c := by
  rw [Spi.reset_eq c p hc (by rw [h.lines, List.length_replicate])]
  exact Spi.created_quiescent hc

theorem spiWriteSr_settleable (h : p.Settleable c) (v : Word) : (spiWriteSr v p).Settleable c := by
  refine ⟨h.txWords, h.rxWords, h.txCap, h.rxCap, h.lines, h.rstClear, ?_⟩
  have hclean := h.srClean
  unfold Spi.SrClean at hclean ⊢
  simp only [spiWriteSr, w1cWrite]
  rw [BitVec.and_assoc, BitVec.and_comm (~~~_), ← BitVec.and_assoc, hclean]
  exact BitVec.zero_and

theorem spiWriteCr_settleable (h : p.Settleable c) (hc : c.legal = true) (v : Word) : (spiWriteCr c v p).Settleable c := by
  unfold spiWriteCr
  split
  · exact (h.reset_quiescent hc).settleable
  · rename_i hrst
    have hrst : v.getLsbD 1 = false := by simpa [rstBit] using hrst
    split
    · exact ⟨rfl, rfl, Nat.zero_le _, Nat.zero_le _, h.lines, hrst, h.srClean⟩
    · exact ⟨h.txWords, h.rxWords, h.txCap, h.rxCap, h.lines, hrst, h.srClean⟩

theorem spiWriteTcr_settleable (h : p.Settleable c) (hc : c.legal = true) (v : Word) :
    (spiWriteTcr c v p).Settleable c := by
  have stored : Spi.Settleable c { p with tcr := v } :=
    ⟨h.txWords, h.rxWords, h.txCap, h.rxCap, h.lines, h.rstClear, h.srClean⟩
  unfold spiWriteTcr
  dsimp only
  split
  · exact stored.burst hc 0x60
  · exact stored

theorem spiWriteTdr_settleable (h : p.Settleable c) (hc : c.legal = true) (v : Word) :
    (spiWriteTdr c v p).Settleable c := by
  unfold spiWriteTdr
  split
  · exact h.diag .moduleDisabled 0x64
  split
  · exact h.diag .txFifoFull 0x64
  · rename_i hroom
    exact (h.setMbf.pushTx v hroom).burst hc 0x64

/-- An RDR read that pops ends its rule with UpdateStatus; one that finds no word leaves the quiescent block as it was. -/
theorem spiReadRdr_quiescent (h : p.Quiescent c) (hc : c.legal = true) :
    (spiReadRdr c p).2.irqUpdate.Quiescent c := by
  unfold spiReadRdr
  split
  · rwa [h.irqUpdate hc]
  · rename_i w rx' hpop
    have popped := h.settleable.popRx hpop
    refine Spi.Settleable.updateStatus_quiescent ?_ hc
    split
    · exact popped.burst hc 0x74
    · exact popped

end

/-! ### The dispatcher's steps around a rule -/

section
variable {s : State} (hs : s.Quiescent)
include hs

theorem State.Quiescent.legal : s.config.legal = true := hs.1

theorem State.Quiescent.uart : s.uart.Quiescent := hs.2.1

theorem State.Quiescent.spi : s.spi.Quiescent s.config := hs.2.2

theorem State.Quiescent.statLegal : s.uart.StatLegal := hs.uart.1

theorem State.Quiescent.settleable : s.spi.Settleable s.config := hs.spi.settleable

theorem State.Quiescent.uartRead {rule : Uart → Word × Uart} (h : (rule s.uart).2.StatLegal) :
    (s.uartRead rule).Quiescent :=
  ⟨hs.legal, h.irqUpdate_quiescent, hs.spi⟩

theorem State.Quiescent.uartWrite {rule : Uart → Uart} (h : (rule s.uart).StatLegal) : (s.uartWrite rule).Quiescent :=
  ⟨hs.legal, h.irqUpdate_quiescent, hs.spi⟩

theorem State.Quiescent.uartEvent {rule : Uart → Uart} (h : (rule s.uart).Quiescent) : (s.uartEvent rule).Quiescent :=
  ⟨hs.legal, h, hs.spi⟩

/-- UpdateStatus changes nothing at a quiescent point, so the rule of a read starts from the block itself. -/
theorem State.Quiescent.spiRead {rule : Spi → Word × Spi} (h : (rule s.spi).2.irqUpdate.Quiescent s.config) :
    (s.spiRead rule).Quiescent := by
  rw [← hs.spi.updateStatus hs.legal] at h
  exact ⟨hs.legal, hs.uart, h⟩

/-- A read whose rule leaves a quiescent block, as one that only reads or only emits a diagnostic does. -/
theorem State.Quiescent.spiRead_of_quiescent {rule : Spi → Word × Spi} (h : (rule s.spi).2.Quiescent s.config) :
    (s.spiRead rule).Quiescent :=
  hs.spiRead (by rwa [h.irqUpdate hs.legal])

theorem State.Quiescent.spiWrite {rule : Spi → Spi} (h : (rule s.spi).Settleable s.config) : (s.spiWrite rule).Quiescent :=
  ⟨hs.legal, hs.uart, h.updateStatus_quiescent hs.legal⟩

/-- A write that stores in a register no invariant reads, or only emits a diagnostic. -/
theorem State.Quiescent.spiStorageWrite {rule : Spi → Spi}
    (h : (rule s.spi).tx = s.spi.tx ∧ (rule s.spi).rx = s.spi.rx ∧ (rule s.spi).cs = s.spi.cs ∧ (rule s.spi).cr = s.spi.cr
      ∧ (rule s.spi).sr = s.spi.sr) : (s.spiWrite rule).Quiescent := by
  obtain ⟨htx, hrx, hcs, hcr, hsr⟩ := h
  have before := hs.settleable
  exact hs.spiWrite ⟨htx ▸ before.txWords, hrx ▸ before.rxWords, htx ▸ before.txCap, hrx ▸ before.rxCap,
    hcs ▸ before.lines, hcr ▸ before.rstClear, by rw [Spi.SrClean, hsr]; exact before.srClean⟩

theorem State.Quiescent.spiEvent {rule : Spi → Spi} (h : (rule s.spi).Quiescent s.config) : (s.spiEvent rule).Quiescent :=
  ⟨hs.legal, hs.uart, h⟩

/-- Every call that answers keeps the invariants: each rule keeps what the dispatcher's steps around it need. -/
theorem State.Quiescent.exec {i : Instr} {t : State} (h : exec i s = .next t) : t.Quiescent := by
  have stat := hs.statLegal
  have spi := hs.spi
  have settleable := hs.settleable
  cases i with
  | rdUartBaud | rdUartStat | rdUartCtrl | rdUartUnmapped => cases h; exact hs.uartRead stat
  | rdUartData => cases h; exact hs.uartRead (stat.setRdrf false)
  | wrUartBaud | wrUartCtrl | wrUartUnmapped => cases h; exact hs.uartWrite stat
  | wrUartStat v => cases h; exact hs.uartWrite (uartWriteStat_statLegal stat v)
  | wrUartData v => cases h; exact hs.uartWrite (uartWriteData_statLegal stat v)
  | rstUart => cases h; exact hs.uartEvent (Uart.reset_quiescent _ _)
  | evUartRxbyte b => cases h; exact hs.uartEvent (uartRxByte_quiescent stat b)
  | rdSpiVerid | rdSpiParam | rdSpiCr | rdSpiSr | rdSpiIer | rdSpiDer | rdSpiCfgr0 | rdSpiCfgr1 | rdSpiCcr | rdSpiFcr
  | rdSpiFsr | rdSpiTcr | rdSpiTdr | rdSpiRsr | rdSpiUnmapped => cases h; exact hs.spiRead_of_quiescent spi
  | rdSpiRdr => cases h; exact hs.spiRead (spiReadRdr_quiescent spi hs.legal)
  | wrSpiCr v => cases h; exact hs.spiWrite (spiWriteCr_settleable settleable hs.legal v)
  | wrSpiSr v => cases h; exact hs.spiWrite (spiWriteSr_settleable settleable v)
  | wrSpiTcr v => cases h; exact hs.spiWrite (spiWriteTcr_settleable settleable hs.legal v)
  | wrSpiTdr v => cases h; exact hs.spiWrite (spiWriteTdr_settleable settleable hs.legal v)
  | wrSpiIer | wrSpiDer | wrSpiCfgr0 | wrSpiCfgr1 | wrSpiCcr | wrSpiFcr | wrSpiVerid | wrSpiParam | wrSpiFsr | wrSpiRsr
  | wrSpiRdr | wrSpiUnmapped => cases h; exact hs.spiStorageWrite ⟨rfl, rfl, rfl, rfl, rfl⟩
  | rstSpi => cases h; exact hs.spiEvent (settleable.reset_quiescent hs.legal)
  | reservedK3 | reservedZ0 | reservedZ1 | reservedZ2 | reservedS3 | subword | misalignedB0 | misalignedB1 | evReserved =>
    cases h

end

/-! ### Creation and the steps -/

theorem State.created_quiescent {c : Config} (hc : c.legal = true) (hz : Nat) : (State.created c hz).Quiescent :=
  ⟨hc, Uart.created_quiescent c, Spi.created_quiescent hc⟩

theorem Config.reference_legal : Config.reference.legal = true := by decide

/-- Settles O1, by the definition of creation. -/
theorem createdBlocksHoldTheirResetValues : Obligations.CreatedBlocksHoldTheirResetValues :=
  fun _ _ => ⟨rfl, rfl, rfl, rfl, rfl, rfl, rfl, rfl, rfl, rfl, rfl, rfl, rfl, rfl⟩

/-- Settles O2, block by block. -/
theorem creationIsQuiescent : Obligations.CreationIsQuiescent :=
  ⟨fun _ hz hc => State.created_quiescent hc hz, State.created_quiescent Config.reference_legal _⟩

/-- The dispatcher's six ways around a rule: what a call that answers makes of the machine. -/
inductive State.Dispatched (s : State) : State → Prop
  | uartRead (rule : Uart → Word × Uart) : Dispatched s (s.uartRead rule)
  | uartWrite (rule : Uart → Uart) : Dispatched s (s.uartWrite rule)
  | uartEvent (rule : Uart → Uart) : Dispatched s (s.uartEvent rule)
  | spiRead (rule : Spi → Word × Spi) : Dispatched s (s.spiRead rule)
  | spiWrite (rule : Spi → Spi) : Dispatched s (s.spiWrite rule)
  | spiEvent (rule : Spi → Spi) : Dispatched s (s.spiEvent rule)

theorem exec_dispatched {i : Instr} {s t : State} (h : exec i s = .next t) : s.Dispatched t := by
  cases i with
  | rdUartBaud | rdUartStat | rdUartCtrl | rdUartData | rdUartUnmapped => cases h; exact .uartRead _
  | wrUartBaud | wrUartStat | wrUartCtrl | wrUartData | wrUartUnmapped => cases h; exact .uartWrite _
  | rstUart | evUartRxbyte => cases h; exact .uartEvent _
  | rdSpiVerid | rdSpiParam | rdSpiCr | rdSpiSr | rdSpiIer | rdSpiDer | rdSpiCfgr0 | rdSpiCfgr1 | rdSpiCcr | rdSpiFcr
  | rdSpiFsr | rdSpiTcr | rdSpiTdr | rdSpiRsr | rdSpiRdr | rdSpiUnmapped => cases h; exact .spiRead _
  | wrSpiVerid | wrSpiParam | wrSpiCr | wrSpiSr | wrSpiIer | wrSpiDer | wrSpiCfgr0 | wrSpiCfgr1 | wrSpiCcr | wrSpiFcr
  | wrSpiFsr | wrSpiTcr | wrSpiTdr | wrSpiRsr | wrSpiRdr | wrSpiUnmapped => cases h; exact .spiWrite _
  | rstSpi => cases h; exact .spiEvent _
  | reservedK3 | reservedZ0 | reservedZ1 | reservedZ2 | reservedS3 | subword | misalignedB0 | misalignedB1 | evReserved =>
    cases h

/-- Settles O47: no way around a rule touches a parameter or an input. -/
theorem noCallChangesParametersOrInputs : Obligations.NoCallChangesParametersOrInputs := by
  intro i s t h
  cases exec_dispatched h <;> exact ⟨rfl, rfl, rfl⟩

theorem step_of_pending_call {s : State} {c : Call} {rest : List HostAction} (h : s.pending = .call c :: rest) :
    step s = exec (decode c) { s with pending := rest } := by
  simp only [step, h]

/-- Settles O55: the word the host places is the head of the list, and taking it off gives the state back. -/
theorem aStepRunsTheNextCall : Obligations.AStepRunsTheNextCall :=
  fun s _ _ nbits w => ⟨step_of_pending_call, step_of_pending_call (s.withFetchWord_pending nbits w)⟩

/-- Settles O3, by the head of the pending list: an idle or clock step changes nothing the invariants read, and a call keeps
them. -/
theorem everyStepKeepsQuiescence : Obligations.EveryStepKeepsQuiescence := by
  intro s t hs h
  match hp : s.pending with
  | [] =>
    rw [step_of_pending_nil hp] at h
    cases h
    exact ⟨hs, rfl⟩
  | .setClock hz :: rest =>
    rw [step_of_pending_setClock hp] at h
    cases h
    exact ⟨hs, rfl⟩
  | .call c :: rest =>
    rw [step_of_pending_call hp] at h
    have hs' : ({ s with pending := rest } : State).Quiescent := hs
    obtain ⟨hconfig, -⟩ := noCallChangesParametersOrInputs _ _ _ h
    exact ⟨hs'.exec h, hconfig⟩

/-! ## The receive cell and its fullness (10_state.md R28) -/

theorem Uart.rdrf_congr {u v : Uart} (h : v.stat = u.stat) : v.rdrf = u.rdrf := by rw [Uart.rdrf, h, Uart.rdrf]

@[simp] theorem Uart.emit_rdrf (e : Event) (u : Uart) : (u.emit e).rdrf = u.rdrf := rfl

@[simp] theorem Uart.irqUpdate_rdrf (u : Uart) : u.irqUpdate.rdrf = u.rdrf := Uart.rdrf_congr u.irqUpdate_stat

@[simp] theorem Uart.setTdre_rdrf (b : Bool) (u : Uart) : (u.setTdre b).rdrf = u.rdrf := by
  rw [Uart.rdrf, Uart.setTdre_stat, getLsbD_setBit _ _ _ _ (by omega)]
  rfl

@[simp] theorem Uart.setRdrf_rdrf (b : Bool) (u : Uart) : (u.setRdrf b).rdrf = b := by
  rw [Uart.rdrf, Uart.setRdrf_stat, getLsbD_setBit _ _ _ _ (by omega), if_pos rfl]

/-- RDRF is outside the mask of a STAT write (40_regbank_irq.md R112). -/
theorem uartWriteStat_rdrf (v : Word) (u : Uart) : (uartWriteStat v u).rdrf = u.rdrf := by
  have outside : statW1cMask.getLsbD 21 = false := by decide
  rw [uartWriteStat, Uart.setTdre_rdrf, Uart.rdrf, getLsbD_w1cWrite _ _ _ _ (by omega), outside, Bool.and_false]
  exact Bool.and_true _

theorem uartWriteData_rdrf (v : Word) (u : Uart) : (uartWriteData v u).rdrf = u.rdrf := by
  unfold uartWriteData
  split
  · rw [Uart.setTdre_rdrf]
    rfl
  · rfl

theorem uartWriteData_rxCell (v : Word) (u : Uart) : (uartWriteData v u).rxCell = u.rxCell := by
  unfold uartWriteData
  split <;> rfl

theorem uartRxByte_of_taken {u : Uart} (b : Byte) (h : u.re = true ∧ u.rdrf = false) :
    uartRxByte b u = ({ u with rxCell := b }.setRdrf true).irqUpdate := by
  rw [uartRxByte, if_pos h]

theorem uartRxByte_of_dropped {u : Uart} (b : Byte) (h : ¬(u.re = true ∧ u.rdrf = false)) :
    uartRxByte b u = u.irqUpdate := by
  rw [uartRxByte, if_neg h]

theorem dataValue_eq (cell : Byte) : dataValue cell = BitVec.ofNat 32 cell.toNat := by
  revert cell
  decide

/-- The calls that may move the cell or its fullness. -/
def touchesCell : Instr → Bool
  | .rdUartData | .rstUart | .evUartRxbyte _ => true
  | _ => false

/-- Every other call leaves both as they are, from any state. -/
theorem exec_cell_frame {i : Instr} {s t : State} (hi : touchesCell i = false) (h : exec i s = .next t) :
    t.uart.rdrf = s.uart.rdrf ∧ t.uart.rxCell = s.uart.rxCell := by
  cases i with
  | rdUartData | rstUart | evUartRxbyte => cases hi
  | rdUartBaud | rdUartStat | rdUartCtrl | rdUartUnmapped | wrUartBaud | wrUartCtrl | wrUartUnmapped =>
    cases h
    exact ⟨Uart.irqUpdate_rdrf _, Uart.irqUpdate_rxCell _⟩
  | wrUartStat v =>
    cases h
    exact ⟨(Uart.irqUpdate_rdrf _).trans (uartWriteStat_rdrf v _), Uart.irqUpdate_rxCell _⟩
  | wrUartData v =>
    cases h
    exact ⟨(Uart.irqUpdate_rdrf _).trans (uartWriteData_rdrf v _),
      (Uart.irqUpdate_rxCell _).trans (uartWriteData_rxCell v _)⟩
  | _ => cases h <;> exact ⟨rfl, rfl⟩

theorem exec_rdUartData_cell {s t : State} (h : exec .rdUartData s = .next t) :
    t.uart.rdrf = false ∧ t.uart.rxCell = s.uart.rxCell
      ∧ t.result = some (BitVec.ofNat 32 s.uart.rxCell.toNat) := by
  cases h
  simp [uartReadData, dataValue_eq]

theorem exec_rstUart_rdrf {s t : State} (h : exec .rstUart s = .next t) : t.uart.rdrf = false := by
  cases h
  rw [State.uartEvent_uart, Uart.reset_eq]
  simp [Uart.rdrf, Uart.created]

theorem exec_evUartRxbyte_taken {b : Byte} {s t : State} (hroom : s.uart.re = true ∧ s.uart.rdrf = false)
    (h : exec (.evUartRxbyte b) s = .next t) : t.uart.rdrf = true ∧ t.uart.rxCell = b := by
  cases h
  simp [uartRxByte_of_taken b hroom]

theorem exec_evUartRxbyte_dropped {b : Byte} {s t : State} (hroom : ¬(s.uart.re = true ∧ s.uart.rdrf = false))
    (h : exec (.evUartRxbyte b) s = .next t) : t.uart.rdrf = s.uart.rdrf ∧ t.uart.rxCell = s.uart.rxCell := by
  cases h
  simp [uartRxByte_of_dropped b hroom]

/-- Settles O17: a DATA read, a reset and a byte-in event, taken or dropped, one by one; no other call moves the cell or RDRF. -/
theorem rdrfIsTheFullnessOfTheCell : Obligations.RdrfIsTheFullnessOfTheCell := by
  intro i s t _ h
  cases hi : touchesCell i with
  | false =>
    obtain ⟨hrdrf, hcell⟩ := exec_cell_frame hi h
    simp +contextual [hrdrf, hcell]
  | true =>
    cases i with
    | rdUartData =>
      obtain ⟨hrdrf, hcell, hresult⟩ := exec_rdUartData_cell h
      simp [hrdrf, hcell, hresult]
    | rstUart => simp [exec_rstUart_rdrf h]
    | evUartRxbyte b =>
      by_cases hroom : s.uart.re = true ∧ s.uart.rdrf = false
      · obtain ⟨hrdrf, hcell⟩ := exec_evUartRxbyte_taken hroom h
        simp [hrdrf, hcell, hroom]
      · obtain ⟨hrdrf, hcell⟩ := exec_evUartRxbyte_dropped hroom h
        simp +contextual [hrdrf, hcell]
    | _ => cases hi

end Sys2Proof.Machine

namespace Sys2Proof.Machine

/-! ## Writes that change nothing (20_memory.md R79) -/

/-- TDRE is set in both words of 10_state.md R29, so asserting it again changes nothing. -/
theorem Uart.StatLegal.setTdre_eq {u : Uart} (h : u.StatLegal) : u.setTdre true = u := by
  have tdreSet : setBit u.stat 23 true = u.stat := by rcases h with h | h <;> rw [h] <;> decide
  rw [Uart.setTdre, tdreSet]

theorem Uart.StatLegal.uartWriteStat_eq {u : Uart} (h : u.StatLegal) (v : Word) : uartWriteStat v u = u := by
  rw [uartWriteStat, h.w1cWrite_eq v]
  exact h.setTdre_eq

section
variable {s : State} (hs : s.Quiescent)
include hs

theorem State.Quiescent.uartWrite_eq {rule : Uart → Uart} (h : rule s.uart = s.uart) :
    s.uartWrite rule = { s with result := none } := by
  rw [State.uartWrite, h, hs.uart.irqUpdate]

/-- A rule may spoil the derived registers: UpdateStatus and IrqUpdate restore them. -/
theorem State.Quiescent.spiWrite_eq {rule : Spi → Spi} (hrule : (rule s.spi).Settleable s.config)
    (h : (rule s.spi).settled s.config = s.spi) : s.spiWrite rule = { s with result := none } := by
  rw [State.spiWrite, Spi.settle _ _ hrule.srClean (hrule.tx_le hs.legal), h]

theorem State.Quiescent.spiWrite_eq_of_fixed {rule : Spi → Spi} (h : rule s.spi = s.spi) :
    s.spiWrite rule = { s with result := none } :=
  hs.spiWrite_eq (by rw [h]; exact hs.settleable) (by rw [h]; exact hs.spi.settled)

/-- No bit that a STAT write can clear is set at a quiescent point. -/
theorem State.Quiescent.exec_wrUartStat (v : Word) : Machine.exec (.wrUartStat v) s = .next { s with result := none } :=
  congrArg Host.Outcome.next (hs.uartWrite_eq (hs.statLegal.uartWriteStat_eq v))

/-- The only bits that an SR write can clear at a quiescent point are the three that UpdateStatus recomputes. -/
theorem State.Quiescent.exec_wrSpiSr (v : Word) : Machine.exec (.wrSpiSr v) s = .next { s with result := none } :=
  congrArg Host.Outcome.next (hs.spiWrite_eq (spiWriteSr_settleable hs.settleable v) hs.spi.settled)

end

/-- Settles O30: a STAT or SR write changes nothing at any quiescent point, and the state after the first write is one; a
register that stores its value already holds it at the second write. -/
theorem plainWritesAreIdempotent : Obligations.PlainWritesAreIdempotent := by
  intro s t v hs
  simp only [List.forall_mem_cons]
  refine ⟨?ctrl, ?stat, ?sr, ?ier, ?der, ?cfgr0, ?cfgr1, ?ccr, ?fcr, List.forall_mem_nil _⟩ <;>
    (intro h; have ht := hs.exec h; cases h)
  case stat => exact ht.exec_wrUartStat v
  case sr => exact ht.exec_wrSpiSr v
  case ctrl =>
    exact congrArg Host.Outcome.next (ht.uartWrite_eq (by rw [State.uartWrite_uart, Uart.irqUpdate_eq]; rfl))
  case ier | der | cfgr0 | cfgr1 | ccr | fcr =>
    exact congrArg Host.Outcome.next (ht.spiWrite_eq_of_fixed (by rw [State.spiWrite_spi, Spi.irqUpdate_eq]; rfl))

/-! ## The two blocks share no state (20_memory.md R82) -/

/-- A call of the LPUART touches the LPUART and the returned value only, and reads neither the LPSPI nor the last returned
value. -/
theorem exec_uart_local {i : Instr} {s t : State} (hi : blockOf i = .uart) (h : exec i s = .next t) :
    t = { s with uart := t.uart, result := t.result }
      ∧ ∀ (p : Spi) (r : Option Word), exec i { s with spi := p, result := r } = .next { t with spi := p } := by
  cases i with
  | rdUartBaud | rdUartStat | rdUartCtrl | rdUartData | rdUartUnmapped | wrUartBaud | wrUartStat | wrUartCtrl | wrUartData
  | wrUartUnmapped | rstUart | evUartRxbyte =>
    cases h
    exact ⟨rfl, fun _ _ => rfl⟩
  | reservedK3 | reservedZ0 | reservedZ1 | reservedZ2 | reservedS3 | subword | misalignedB0 | misalignedB1 | evReserved =>
    cases h
  | _ => cases hi

/-- A call of the LPSPI touches the LPSPI and the returned value only, and reads neither the LPUART nor the last returned
value. -/
theorem exec_spi_local {i : Instr} {s t : State} (hi : blockOf i = .spi) (h : exec i s = .next t) :
    t = { s with spi := t.spi, result := t.result }
      ∧ ∀ (u : Uart) (r : Option Word), exec i { s with uart := u, result := r } = .next { t with uart := u } := by
  cases i with
  | rdSpiVerid | rdSpiParam | rdSpiCr | rdSpiSr | rdSpiIer | rdSpiDer | rdSpiCfgr0 | rdSpiCfgr1 | rdSpiCcr | rdSpiFcr
  | rdSpiFsr | rdSpiTcr | rdSpiTdr | rdSpiRsr | rdSpiRdr | rdSpiUnmapped | wrSpiVerid | wrSpiParam | wrSpiCr | wrSpiSr
  | wrSpiIer | wrSpiDer | wrSpiCfgr0 | wrSpiCfgr1 | wrSpiCcr | wrSpiFcr | wrSpiFsr | wrSpiTcr | wrSpiTdr | wrSpiRsr
  | wrSpiRdr | wrSpiUnmapped | rstSpi =>
    cases h
    exact ⟨rfl, fun _ _ => rfl⟩
  | reservedK3 | reservedZ0 | reservedZ1 | reservedZ2 | reservedS3 | subword | misalignedB0 | misalignedB1 | evReserved =>
    cases h
  | _ => cases hi

/-- Settles O46: each call made second answers as it does from the state before the other, by the locality of both. -/
theorem theTwoBlocksShareNoState : Obligations.TheTwoBlocksShareNoState := by
  intro i j s t u t' u' hi hj hit hju hjt' hiu'
  obtain ⟨ht, uartAgain⟩ := exec_uart_local hi hit
  obtain ⟨ht', spiAgain⟩ := exec_spi_local hj hjt'
  have hu : exec j t = .next { t' with uart := t.uart } := by
    rw [ht]
    exact spiAgain t.uart t.result
  have hu' : exec i t' = .next { t with spi := t'.spi } := by
    rw [ht']
    exact uartAgain t'.spi t'.result
  cases hju.symm.trans hu
  cases hiu'.symm.trans hu'
  exact ⟨(congrArg State.spi ht :), (congrArg State.uart ht' :), rfl, rfl, rfl, rfl⟩

end Sys2Proof.Machine

namespace Sys2Proof.Machine

/-! ## The forms of a descriptor and what each decodes to (30_encoding.md R92) -/

/-- The groups of R92: a reserved K, a reserved Z by its lowest set bit, a register access, and an event. -/
inductive DescriptorForm : Fields → Prop
  | reservedK3 (b : Block) (s : BitVec 2) (z : BitVec 3) (o : Offset) : DescriptorForm ⟨b, 3, s, z, o⟩
  | reservedZ0 (b : Block) (k : Kind) (s z21 : BitVec 2) (o : Offset) : DescriptorForm ⟨b, bitsOfKind k, s, z21 ++ 1#1, o⟩
  | reservedZ1 (b : Block) (k : Kind) (s : BitVec 2) (z2 : BitVec 1) (o : Offset) :
    DescriptorForm ⟨b, bitsOfKind k, s, z2 ++ 2#2, o⟩
  | reservedZ2 (b : Block) (k : Kind) (s : BitVec 2) (o : Offset) : DescriptorForm ⟨b, bitsOfKind k, s, 4, o⟩
  | access (b : Block) (d : Dir) (s : BitVec 2) (o : Offset) : DescriptorForm ⟨b, bitsOfDir d, s, 0, o⟩
  | event (b : Block) (s : BitVec 2) (o : Offset) : DescriptorForm ⟨b, 2, s, 0, o⟩

theorem kindField_cases (k : BitVec 2) : k = 3 ∨ ∃ κ : Kind, k = bitsOfKind κ := by
  have all : ∀ k : BitVec 2, k = 3 ∨ k = bitsOfKind .read ∨ k = bitsOfKind .write ∨ k = bitsOfKind .event := by decide
  rcases all k with h | h | h | h
  · exact .inl h
  all_goals exact .inr ⟨_, h⟩

theorem zField_cases (z : BitVec 3) :
    (∃ z21 : BitVec 2, z = z21 ++ 1#1) ∨ (∃ z2 : BitVec 1, z = z2 ++ 2#2) ∨ z = 4 ∨ z = 0 := by
  revert z
  decide

theorem sizeField_cases (s : BitVec 2) : s = 3 ∨ (∃ n : SubSize, s = bitsOfSubSize n) ∨ s = 2 := by
  have all : ∀ s : BitVec 2, s = 3 ∨ s = bitsOfSubSize .byte ∨ s = bitsOfSubSize .half ∨ s = 2 := by decide
  rcases all s with h | h | h | h
  · exact .inl h
  · exact .inr (.inl ⟨_, h⟩)
  · exact .inr (.inl ⟨_, h⟩)
  · exact .inr (.inr h)

theorem descriptorForm (f : Fields) : DescriptorForm f := by
  obtain ⟨b, k, s, z, o⟩ := f
  obtain rfl | ⟨κ, rfl⟩ := kindField_cases k
  · exact .reservedK3 b s z o
  obtain ⟨z21, rfl⟩ | ⟨z2, rfl⟩ | rfl | rfl := zField_cases z
  · exact .reservedZ0 b κ s z21 o
  · exact .reservedZ1 b κ s z2 o
  · exact .reservedZ2 b κ s o
  · cases κ with
    | read => exact .access b .read s o
    | write => exact .access b .write s o
    | event => exact .event b s o

@[simp] theorem kindOf_bitsOfKind (k : Kind) : kindOf (bitsOfKind k) = k := by cases k <;> rfl

theorem bitsOfKind_ne_reserved (k : Kind) : ¬ bitsOfKind k = 3 := by cases k <;> decide

section
variable (b : Block) (k : Kind) (d : Dir) (s z21 : BitVec 2) (z2 : BitVec 1) (z : BitVec 3) (o : Offset) (v : Word)

theorem decodeFields_reservedK3 : decodeFields ⟨b, 3, s, z, o⟩ v = .reservedK3 b s z o := rfl

theorem decodeFields_reservedZ0 : decodeFields ⟨b, bitsOfKind k, s, z21 ++ 1#1, o⟩ v = .reservedZ0 b k s z21 o := by
  have bit0 : (z21 ++ 1#1 : BitVec 3).getLsbD 0 = true := by revert z21; decide
  have rest : (z21 ++ 1#1 : BitVec 3).extractLsb' 1 2 = z21 := by revert z21; decide
  simp only [decodeFields, if_neg (bitsOfKind_ne_reserved k), bit0, rest, kindOf_bitsOfKind, ↓reduceIte]

theorem decodeFields_reservedZ1 : decodeFields ⟨b, bitsOfKind k, s, z2 ++ 2#2, o⟩ v = .reservedZ1 b k s z2 o := by
  have bit0 : (z2 ++ 2#2 : BitVec 3).getLsbD 0 = false := by revert z2; decide
  have bit1 : (z2 ++ 2#2 : BitVec 3).getLsbD 1 = true := by revert z2; decide
  have rest : (z2 ++ 2#2 : BitVec 3).extractLsb' 2 1 = z2 := by revert z2; decide
  simp only [decodeFields, if_neg (bitsOfKind_ne_reserved k), bit0, bit1, rest, kindOf_bitsOfKind, ↓reduceIte,
    Bool.false_eq_true]

theorem decodeFields_reservedZ2 : decodeFields ⟨b, bitsOfKind k, s, 4, o⟩ v = .reservedZ2 b k s o := by
  rw [decodeFields, if_neg (bitsOfKind_ne_reserved k)]
  simp

theorem decodeFields_access :
    decodeFields ⟨b, bitsOfDir d, s, 0, o⟩ v = decodeAccess d ⟨b, bitsOfDir d, s, 0, o⟩ v := by
  cases d <;> simp [decodeFields, bitsOfDir, kindOf]

theorem decodeFields_event : decodeFields ⟨b, 2, s, 0, o⟩ v = decodeEvent ⟨b, 2, s, 0, o⟩ v := by
  simp [decodeFields, kindOf]

end

section
variable {f : Fields} (d : Dir) (v : Word)

theorem decodeAccess_reservedS3 (hs : f.s = 3) : decodeAccess d f v = .reservedS3 f.b d f.o := by
  rw [decodeAccess, if_pos hs]

theorem decodeAccess_subword {n : SubSize} (hs : f.s = bitsOfSubSize n) : decodeAccess d f v = .subword f.b d n f.o := by
  cases n <;> simp [decodeAccess, hs, bitsOfSubSize]

theorem decodeAccess_misalignedB0 (hs : f.s = 2) (ho : f.o.toNat % 2 = 1) :
    decodeAccess d f v = .misalignedB0 f.b d f.o := by
  simp [decodeAccess, hs, ho]

theorem decodeAccess_misalignedB1 (hs : f.s = 2) (ho : f.o.toNat % 4 = 2) :
    decodeAccess d f v = .misalignedB1 f.b d f.o := by
  have even : f.o.toNat % 2 = 0 := by omega
  simp [decodeAccess, hs, ho, even]

theorem decodeAccess_aligned (hs : f.s = 2) (ho : f.o.toNat % 4 = 0) :
    decodeAccess d f v = decodeAligned d f.b f.o v := by
  have even : f.o.toNat % 2 = 0 := by omega
  simp [decodeAccess, hs, ho, even]

theorem decodeEvent_reserved (h : isEventNumber f.b f.s f.o = false) : decodeEvent f v = .evReserved f.b f.s f.o := by
  simp [decodeEvent, h]

end

theorem offset_cases (o : Offset) : o.toNat % 2 = 1 ∨ o.toNat % 4 = 2 ∨ o.toNat % 4 = 0 := by omega

/-- The events of R91. -/
theorem isEventNumber_iff {b : Block} {s : BitVec 2} {o : Offset} :
    isEventNumber b s o = true ↔ s = 0 ∧ (o = 0 ∨ o = 1 ∧ b = .uart) := by
  simp [isEventNumber]

/-! ## The register at an offset (10_state.md R27, R57) -/

theorem uartRegAt_eq_some_iff {off : Nat} {r : UartReg} : uartRegAt off = some r ↔ off = uartOffset r := by
  constructor
  · intro h
    exact (eq_of_beq (List.find?_some (p := fun r => uartOffset r == off) h)).symm
  · rintro rfl
    cases r <;> rfl

theorem spiRegAt_eq_some_iff {off : Nat} {r : SpiReg} : spiRegAt off = some r ↔ off = spiOffset r := by
  constructor
  · intro h
    exact (eq_of_beq (List.find?_some (p := fun r => spiOffset r == off) h)).symm
  · rintro rfl
    cases r <;> rfl

/-- The block a register stands in. -/
def regBlock : RegName → Block
  | .uart _ => .uart
  | .spi _ => .spi

/-- The byte offset of a register in its block's region. -/
def regOffset : RegName → Nat
  | .uart r => uartOffset r
  | .spi r => spiOffset r

/-- The access of a register (30_encoding.md R105). -/
def accessInstr (d : Dir) (v : Word) (n : RegName) : Instr :=
  match d with
  | .read => readInstr n
  | .write => writeInstr v n

/-- The unmapped row of a block and a direction. -/
def unmappedInstr (b : Block) (d : Dir) (o : Offset) (v : Word) : Instr :=
  match b, d with
  | .uart, .read => .rdUartUnmapped o
  | .uart, .write => .wrUartUnmapped o v
  | .spi, .read => .rdSpiUnmapped o
  | .spi, .write => .wrSpiUnmapped o v

theorem isMapped_uart_eq_false_iff {off : Nat} : isMapped .uart off = false ↔ uartRegAt off = none := by simp [isMapped]

theorem isMapped_spi_eq_false_iff {off : Nat} : isMapped .spi off = false ↔ spiRegAt off = none := by simp [isMapped]

theorem mapped_or_unmapped (b : Block) (off : Nat) :
    (∃ n : RegName, regBlock n = b ∧ off = regOffset n) ∨ isMapped b off = false := by
  cases b with
  | uart =>
    cases hr : uartRegAt off with
    | none => exact .inr (isMapped_uart_eq_false_iff.2 hr)
    | some r => exact .inl ⟨.uart r, rfl, uartRegAt_eq_some_iff.1 hr⟩
  | spi =>
    cases hr : spiRegAt off with
    | none => exact .inr (isMapped_spi_eq_false_iff.2 hr)
    | some r => exact .inl ⟨.spi r, rfl, spiRegAt_eq_some_iff.1 hr⟩

section
variable (d : Dir) {o : Offset} (v : Word)

theorem decodeAligned_mapped {n : RegName} (h : o.toNat = regOffset n) :
    decodeAligned d (regBlock n) o v = accessInstr d v n := by
  cases n with
  | uart r => cases d <;> simp only [decodeAligned, regBlock, uartRegAt_eq_some_iff.2 h] <;> rfl
  | spi r => cases d <;> simp only [decodeAligned, regBlock, spiRegAt_eq_some_iff.2 h] <;> rfl

theorem decodeAligned_unmapped {b : Block} (h : isMapped b o.toNat = false) :
    decodeAligned d b o v = unmappedInstr b d o v := by
  cases b with
  | uart => cases d <;> simp only [decodeAligned, isMapped_uart_eq_false_iff.1 h] <;> rfl
  | spi => cases d <;> simp only [decodeAligned, isMapped_spi_eq_false_iff.1 h] <;> rfl

end

/-- What well-formedness asks of the offset of an unmapped row. -/
theorem unmappedOffset_iff {b : Block} {o : Offset} :
    (alignedOffset o && !isMapped b o.toNat) = true ↔ o.toNat % 4 = 0 ∧ isMapped b o.toNat = false := by
  simp [alignedOffset]

/-- An access that reaches the map: size 4 at an aligned offset. -/
theorem decodeFields_aligned (b : Block) (d : Dir) {o : Offset} (v : Word) (ho : o.toNat % 4 = 0) :
    decodeFields ⟨b, bitsOfDir d, 2, 0, o⟩ v = decodeAligned d b o v := by
  rw [decodeFields_access, decodeAccess_aligned d v rfl ho]

theorem decodeFields_unmapped (b : Block) (d : Dir) {o : Offset} (v : Word)
    (h : (alignedOffset o && !isMapped b o.toNat) = true) :
    decodeFields ⟨b, bitsOfDir d, 2, 0, o⟩ v = unmappedInstr b d o v := by
  obtain ⟨aligned, unmapped⟩ := unmappedOffset_iff.1 h
  rw [decodeFields_aligned b d v aligned, decodeAligned_unmapped d v unmapped]

theorem decodeFields_encodeFields (i : Instr) (h : i.wellFormed = true) :
    decodeFields (encodeFields i) (encodeOperand i) = i := by
  cases i with
  | rdUartBaud | rdUartStat | rdUartCtrl | rdUartData => exact decodeFields_aligned .uart .read 0 rfl
  | wrUartBaud v | wrUartStat v | wrUartCtrl v | wrUartData v => exact decodeFields_aligned .uart .write v rfl
  | rdSpiVerid | rdSpiParam | rdSpiCr | rdSpiSr | rdSpiIer | rdSpiDer | rdSpiCfgr0 | rdSpiCfgr1 | rdSpiCcr | rdSpiFcr
  | rdSpiFsr | rdSpiTcr | rdSpiTdr | rdSpiRsr | rdSpiRdr => exact decodeFields_aligned .spi .read 0 rfl
  | wrSpiVerid v | wrSpiParam v | wrSpiCr v | wrSpiSr v | wrSpiIer v | wrSpiDer v | wrSpiCfgr0 v | wrSpiCfgr1 v
  | wrSpiCcr v | wrSpiFcr v | wrSpiFsr v | wrSpiTcr v | wrSpiTdr v | wrSpiRsr v | wrSpiRdr v =>
    exact decodeFields_aligned .spi .write v rfl
  | rstUart => exact decodeFields_event .uart 0 0 0
  | rstSpi => exact decodeFields_event .spi 0 0 0
  | evUartRxbyte b =>
    exact (decodeFields_event .uart 0 1 _).trans (congrArg Instr.evUartRxbyte (lowByte_operandOfByte b))
  | reservedK3 b s z o => exact decodeFields_reservedK3 b s z o 0
  | reservedZ0 b k s z21 o => exact decodeFields_reservedZ0 b k s z21 o 0
  | reservedZ1 b k s z2 o => exact decodeFields_reservedZ1 b k s z2 o 0
  | reservedZ2 b k s o => exact decodeFields_reservedZ2 b k s o 0
  | reservedS3 b d o => exact (decodeFields_access b d 3 o 0).trans (decodeAccess_reservedS3 d 0 rfl)
  | subword b d n o => exact (decodeFields_access b d (bitsOfSubSize n) o 0).trans (decodeAccess_subword d 0 rfl)
  | misalignedB0 b d o =>
    exact (decodeFields_access b d 2 o 0).trans (decodeAccess_misalignedB0 d 0 rfl (of_decide_eq_true h))
  | misalignedB1 b d o =>
    exact (decodeFields_access b d 2 o 0).trans (decodeAccess_misalignedB1 d 0 rfl (of_decide_eq_true h))
  | rdUartUnmapped o => exact decodeFields_unmapped .uart .read 0 h
  | wrUartUnmapped o v => exact decodeFields_unmapped .uart .write v h
  | rdSpiUnmapped o => exact decodeFields_unmapped .spi .read 0 h
  | wrSpiUnmapped o v => exact decodeFields_unmapped .spi .write v h
  | evReserved b s o =>
    exact (decodeFields_event b s o 0).trans (decodeEvent_reserved 0 (Bool.not_eq_eq_eq_not.mp h))

/-- Settles O51: the decoder sees the fields and the operand, and each row's fields meet that row's conditions alone. -/
theorem decodeOfEncodeIsTheInstruction : Obligations.DecodeOfEncodeIsTheInstruction := fun i h =>
  (decode_encode_eq i).trans (decodeFields_encodeFields i h)

/-! ## Every descriptor decodes to a row it spells -/

/-- An instruction that the fields of a descriptor spell: well-formed, and encoded by these fields. -/
def Spells (f : Fields) (i : Instr) : Prop := i.wellFormed = true ∧ encodeFields i = f

theorem spells_accessInstr (d : Dir) (v : Word) (n : RegName) :
    Spells ⟨regBlock n, bitsOfDir d, 2, 0, BitVec.ofNat 24 (regOffset n)⟩ (accessInstr d v n) := by
  cases d <;> obtain r | r := n <;> cases r <;> exact ⟨rfl, rfl⟩

theorem spells_unmappedInstr {b : Block} (d : Dir) {o : Offset} (v : Word)
    (h : (alignedOffset o && !isMapped b o.toNat) = true) :
    Spells ⟨b, bitsOfDir d, 2, 0, o⟩ (unmappedInstr b d o v) := by
  cases b <;> cases d <;> exact ⟨h, rfl⟩

theorem spells_decodeAligned (b : Block) (d : Dir) {o : Offset} (v : Word) (ho : o.toNat % 4 = 0) :
    Spells ⟨b, bitsOfDir d, 2, 0, o⟩ (decodeAligned d b o v) := by
  obtain ⟨n, rfl, hn⟩ | unmapped := mapped_or_unmapped b o.toNat
  · have offset : o = BitVec.ofNat 24 (regOffset n) := by rw [← hn, BitVec.ofNat_toNat, BitVec.setWidth_eq]
    rw [decodeAligned_mapped d v hn, offset]
    exact spells_accessInstr d v n
  · rw [decodeAligned_unmapped d v unmapped]
    exact spells_unmappedInstr d v (unmappedOffset_iff.2 ⟨ho, unmapped⟩)

theorem spells_decodeAccess (b : Block) (d : Dir) (s : BitVec 2) (o : Offset) (v : Word) :
    Spells ⟨b, bitsOfDir d, s, 0, o⟩ (decodeAccess d ⟨b, bitsOfDir d, s, 0, o⟩ v) := by
  obtain rfl | ⟨n, rfl⟩ | rfl := sizeField_cases s
  · rw [decodeAccess_reservedS3 d v rfl]
    exact ⟨rfl, rfl⟩
  · rw [decodeAccess_subword d v rfl]
    exact ⟨rfl, rfl⟩
  obtain ho | ho | ho := offset_cases o
  · rw [decodeAccess_misalignedB0 d v rfl ho]
    exact ⟨decide_eq_true ho, rfl⟩
  · rw [decodeAccess_misalignedB1 d v rfl ho]
    exact ⟨decide_eq_true ho, rfl⟩
  · rw [decodeAccess_aligned d v rfl ho]
    exact spells_decodeAligned b d v ho

theorem spells_decodeEvent (b : Block) (s : BitVec 2) (o : Offset) (v : Word) :
    Spells ⟨b, 2, s, 0, o⟩ (decodeEvent ⟨b, 2, s, 0, o⟩ v) := by
  cases he : isEventNumber b s o with
  | false =>
    rw [decodeEvent_reserved v he]
    exact ⟨Bool.not_eq_eq_eq_not.mpr he, rfl⟩
  | true =>
    obtain ⟨rfl, rfl | ⟨rfl, rfl⟩⟩ := isEventNumber_iff.1 he
    · cases b <;> exact ⟨rfl, rfl⟩
    · exact ⟨rfl, rfl⟩

theorem spells_decodeFields (f : Fields) (v : Word) : Spells f (decodeFields f v) := by
  cases descriptorForm f with
  | reservedK3 b s z o => rw [decodeFields_reservedK3]; exact ⟨rfl, rfl⟩
  | reservedZ0 b k s z21 o => rw [decodeFields_reservedZ0]; exact ⟨rfl, rfl⟩
  | reservedZ1 b k s z2 o => rw [decodeFields_reservedZ1]; exact ⟨rfl, rfl⟩
  | reservedZ2 b k s o => rw [decodeFields_reservedZ2]; exact ⟨rfl, rfl⟩
  | access b d s o => rw [decodeFields_access]; exact spells_decodeAccess b d s o v
  | event b s o => rw [decodeFields_event]; exact spells_decodeEvent b s o v

open Laws in
theorem rowMatch_of_wellFormed (i : Instr) : RowMatch.Statement i := by
  cases i with
  | rdUartBaud => exact RowMatch.rdUartBaud
  | rdUartStat => exact RowMatch.rdUartStat
  | rdUartCtrl => exact RowMatch.rdUartCtrl
  | rdUartData => exact RowMatch.rdUartData
  | wrUartBaud v => exact RowMatch.wrUartBaud v
  | wrUartStat v => exact RowMatch.wrUartStat v
  | wrUartCtrl v => exact RowMatch.wrUartCtrl v
  | wrUartData v => exact RowMatch.wrUartData v
  | rdSpiVerid => exact RowMatch.rdSpiVerid
  | rdSpiParam => exact RowMatch.rdSpiParam
  | rdSpiCr => exact RowMatch.rdSpiCr
  | rdSpiSr => exact RowMatch.rdSpiSr
  | rdSpiIer => exact RowMatch.rdSpiIer
  | rdSpiDer => exact RowMatch.rdSpiDer
  | rdSpiCfgr0 => exact RowMatch.rdSpiCfgr0
  | rdSpiCfgr1 => exact RowMatch.rdSpiCfgr1
  | rdSpiCcr => exact RowMatch.rdSpiCcr
  | rdSpiFcr => exact RowMatch.rdSpiFcr
  | rdSpiFsr => exact RowMatch.rdSpiFsr
  | rdSpiTcr => exact RowMatch.rdSpiTcr
  | rdSpiTdr => exact RowMatch.rdSpiTdr
  | rdSpiRsr => exact RowMatch.rdSpiRsr
  | rdSpiRdr => exact RowMatch.rdSpiRdr
  | wrSpiVerid v => exact RowMatch.wrSpiVerid v
  | wrSpiParam v => exact RowMatch.wrSpiParam v
  | wrSpiCr v => exact RowMatch.wrSpiCr v
  | wrSpiSr v => exact RowMatch.wrSpiSr v
  | wrSpiIer v => exact RowMatch.wrSpiIer v
  | wrSpiDer v => exact RowMatch.wrSpiDer v
  | wrSpiCfgr0 v => exact RowMatch.wrSpiCfgr0 v
  | wrSpiCfgr1 v => exact RowMatch.wrSpiCfgr1 v
  | wrSpiCcr v => exact RowMatch.wrSpiCcr v
  | wrSpiFcr v => exact RowMatch.wrSpiFcr v
  | wrSpiFsr v => exact RowMatch.wrSpiFsr v
  | wrSpiTcr v => exact RowMatch.wrSpiTcr v
  | wrSpiTdr v => exact RowMatch.wrSpiTdr v
  | wrSpiRsr v => exact RowMatch.wrSpiRsr v
  | wrSpiRdr v => exact RowMatch.wrSpiRdr v
  | rstUart => exact RowMatch.rstUart
  | evUartRxbyte b => exact RowMatch.evUartRxbyte b
  | rstSpi => exact RowMatch.rstSpi
  | reservedK3 b s z o => exact RowMatch.reservedK3 b s z o
  | reservedZ0 b k s z21 o => exact RowMatch.reservedZ0 b k s z21 o
  | reservedZ1 b k s z2 o => exact RowMatch.reservedZ1 b k s z2 o
  | reservedZ2 b k s o => exact RowMatch.reservedZ2 b k s o
  | reservedS3 b d o => exact RowMatch.reservedS3 b d o
  | subword b d n o => exact RowMatch.subword b d n o
  | misalignedB0 b d o => exact RowMatch.misalignedB0 b d o
  | misalignedB1 b d o => exact RowMatch.misalignedB1 b d o
  | rdUartUnmapped o => exact RowMatch.rdUartUnmapped o
  | wrUartUnmapped o v => exact RowMatch.wrUartUnmapped o v
  | rdSpiUnmapped o => exact RowMatch.rdSpiUnmapped o
  | wrSpiUnmapped o v => exact RowMatch.wrSpiUnmapped o v
  | evReserved b s o => exact RowMatch.evReserved b s o

/-- Settles O52, by the forms of a descriptor; the row follows from what the encoding of each row matches. -/
theorem everyDescriptorDecodesToARowItMatches : Obligations.EveryDescriptorDecodesToARowItMatches := by
  intro c
  obtain ⟨wf, spelled⟩ := spells_decodeFields (fieldsOf c.descriptor) c.operand
  have same : (encode (decode c)).descriptor = c.descriptor :=
    (congrArg descriptorOf spelled).trans (descriptorOf_fieldsOf c.descriptor)
  have row := rowMatch_of_wellFormed (decode c) wf
  exact ⟨wf, same, by rwa [same] at row⟩

/-! ## The dispatcher -/

/-- The entry point of a register access (40_regbank_irq.md R113, R116). -/
def hostAccess (b : Block) (d : Dir) (off size : Nat) (v : Word) (s : State) : Answer :=
  match d with
  | .read => hostRead b off size s
  | .write => hostWrite b off size v s

section
variable (b : Block) (d : Dir) {off size : Nat} (v : Word) (s : State)

theorem hostAccess_subword (hsize : size ≠ 4) : hostAccess b d off size v s = .refused .subwordAccess := by
  cases d <;> simp [hostAccess, hostRead, hostWrite, hsize]

theorem hostAccess_misaligned (hoff : off % 4 ≠ 0) : hostAccess b d off 4 v s = .refused .misalignedAccess := by
  cases d <;> simp [hostAccess, hostRead, hostWrite, hoff]

end

/-- Each register access runs the dispatcher's rule for its register. -/
theorem exec_accessInstr (d : Dir) (v : Word) (n : RegName) (s : State) :
    exec (accessInstr d v n) s = hostAccess (regBlock n) d (regOffset n) 4 v s := by
  cases d <;> obtain r | r := n <;> cases r <;> rfl

theorem exec_unmappedInstr {b : Block} (d : Dir) {o : Offset} (v : Word) (s : State) (ho : o.toNat % 4 = 0)
    (h : isMapped b o.toNat = false) : exec (unmappedInstr b d o v) s = hostAccess b d o.toNat 4 v s := by
  cases b with
  | uart =>
    have noReg := isMapped_uart_eq_false_iff.1 h
    cases d <;> simp only [hostAccess, hostRead, hostWrite, uartReadRule, uartWriteRule, ho, noReg, ne_eq,
      not_true_eq_false, ↓reduceIte] <;> rfl
  | spi =>
    have noReg := isMapped_spi_eq_false_iff.1 h
    cases d <;> simp only [hostAccess, hostRead, hostWrite, spiReadRule, spiWriteRule, ho, noReg, ne_eq,
      not_true_eq_false, ↓reduceIte] <;> rfl

theorem exec_decodeAligned (b : Block) (d : Dir) {o : Offset} (v : Word) (s : State) (ho : o.toNat % 4 = 0) :
    exec (decodeAligned d b o v) s = hostAccess b d o.toNat 4 v s := by
  obtain ⟨n, rfl, hn⟩ | unmapped := mapped_or_unmapped b o.toNat
  · rw [decodeAligned_mapped d v hn, hn]
    exact exec_accessInstr d v n s
  · rw [decodeAligned_unmapped d v unmapped]
    exact exec_unmappedInstr d v s ho unmapped

section
variable (b : Block) (d : Dir) (c : BitVec 2) (o : Offset) (v : Word) (s : State)

theorem hostCall_access :
    hostCall ⟨b, bitsOfDir d, c, 0, o⟩ v s
      = if c = 3 then .refused .reservedDescriptor else hostAccess b d o.toNat (sizeOfCode c) v s := by
  cases d <;> simp [hostCall, hostAccess, bitsOfDir]

theorem hostCall_event :
    hostCall ⟨b, 2, c, 0, o⟩ v s
      = if isEventNumber b c o = false then .refused .reservedDescriptor
        else if o = 0 then hostReset b s else hostRxByte (lowByte v) s := by
  simp [hostCall]

theorem exec_decodeAccess :
    exec (decodeAccess d ⟨b, bitsOfDir d, c, 0, o⟩ v) s = hostCall ⟨b, bitsOfDir d, c, 0, o⟩ v s := by
  rw [hostCall_access]
  obtain rfl | ⟨n, rfl⟩ | rfl := sizeField_cases c
  · rw [decodeAccess_reservedS3 d v rfl]
    rfl
  · rw [decodeAccess_subword d v rfl]
    cases n <;> exact (hostAccess_subword b d v s (by decide)).symm
  obtain ho | ho | ho := offset_cases o
  · rw [decodeAccess_misalignedB0 d v rfl ho]
    exact (hostAccess_misaligned b d v s (by omega)).symm
  · rw [decodeAccess_misalignedB1 d v rfl ho]
    exact (hostAccess_misaligned b d v s (by omega)).symm
  · rw [decodeAccess_aligned d v rfl ho]
    exact exec_decodeAligned b d v s ho

theorem exec_decodeEvent : exec (decodeEvent ⟨b, 2, c, 0, o⟩ v) s = hostCall ⟨b, 2, c, 0, o⟩ v s := by
  rw [hostCall_event]
  cases he : isEventNumber b c o with
  | false =>
    rw [decodeEvent_reserved v he]
    rfl
  | true =>
    obtain ⟨rfl, rfl | ⟨rfl, rfl⟩⟩ := isEventNumber_iff.1 he
    · cases b <;> rfl
    · rfl

end

theorem hostCall_reserved {b : Block} {k c : BitVec 2} {z : BitVec 3} {o : Offset} (v : Word) (s : State)
    (h : k = 3 ∨ z ≠ 0) : hostCall ⟨b, k, c, z, o⟩ v s = .refused .reservedDescriptor :=
  if_pos (h.imp_right .inl)

theorem exec_decodeFields (f : Fields) (v : Word) (s : State) : exec (decodeFields f v) s = hostCall f v s := by
  cases descriptorForm f with
  | reservedK3 b c z o =>
    rw [decodeFields_reservedK3, hostCall_reserved v s (.inl rfl)]
    rfl
  | reservedZ0 b k c z21 o =>
    rw [decodeFields_reservedZ0, hostCall_reserved v s (.inr (by revert z21; decide))]
    rfl
  | reservedZ1 b k c z2 o =>
    rw [decodeFields_reservedZ1, hostCall_reserved v s (.inr (by revert z2; decide))]
    rfl
  | reservedZ2 b k c o =>
    rw [decodeFields_reservedZ2, hostCall_reserved v s (.inr (by decide))]
    rfl
  | access b d c o => rw [decodeFields_access]; exact exec_decodeAccess b d c o v s
  | event b c o => rw [decodeFields_event]; exact exec_decodeEvent b c o v s

/-- Settles O45, by the forms of a descriptor: what is reserved is refused by both, an access goes by its register or the
unmapped rule, an event by its number. -/
theorem execIsTheRegisterBankDispatch : Obligations.ExecIsTheRegisterBankDispatch :=
  fun c s => exec_decodeFields (fieldsOf c.descriptor) c.operand s

/-! ## POLL of a register that a read leaves as it is (30_encoding.md R106) -/

section
variable {s : State} (hs : s.Quiescent)
include hs

/-- A read whose rule leaves the block as it is only sets the returned value. -/
theorem State.Quiescent.uartRead_eq {rule : Uart → Word × Uart} (h : (rule s.uart).2 = s.uart) :
    s.uartRead rule = { s with result := some (rule s.uart).1 } := by
  rw [State.uartRead, h, hs.uart.irqUpdate]

@[inherit_doc State.Quiescent.uartRead_eq]
theorem State.Quiescent.spiRead_eq {rule : Spi → Word × Spi} (h : (rule s.spi).2 = s.spi) :
    s.spiRead rule = { s with result := some (rule s.spi).1 } := by
  rw [State.spiRead, hs.spi.updateStatus hs.legal, h, hs.spi.irqUpdate hs.legal]

theorem State.Quiescent.exec_rdUartStat : Machine.exec .rdUartStat s = .next { s with result := some s.uart.stat } :=
  congrArg Host.Outcome.next (hs.uartRead_eq rfl)

theorem State.Quiescent.exec_rdSpiSr : Machine.exec .rdSpiSr s = .next { s with result := some s.spi.sr } :=
  congrArg Host.Outcome.next (hs.spiRead_eq rfl)

end

/-- A POLL whose read answers one word, whatever was returned before it, and which that word does not end. -/
theorem poll_of_constant_read (reg : RegName) (s : State) {m e w : Word} (hw : w &&& m ≠ e)
    (hread : ∀ r, exec (readInstr reg) { s with result := r } = .next { s with result := some w }) (n : Nat)
    (r : Option Word) : poll reg m e n { s with result := r } = .next { s with result := some w } := by
  induction n generalizing r with
  | zero => exact hread r
  | succ n ih =>
    simp only [poll, hread r, Option.getD_some, if_neg hw]
    exact ih (some w)

/-- Settles O50: at a quiescent point a read of STAT or SR answers the same word however often it is made. -/
theorem aPollThatFailsOnceFailsForEver : Obligations.APollThatFailsOnceFailsForEver := by
  intro s m e n hs
  have quiescent (r : Option Word) : ({ s with result := r } : State).Quiescent := hs
  exact ⟨fun hw => poll_of_constant_read (.uart .stat) s hw (fun r => (quiescent r).exec_rdUartStat) n s.result,
    fun hw => poll_of_constant_read (.spi .sr) s hw (fun r => (quiescent r).exec_rdSpiSr) n s.result⟩

/-! ## The word of a WRF (30_encoding.md R106) -/

theorem wrfNames_iff {n : RegName} {fields : List (Field × Nat)} :
    wrfNames n fields = true ↔ (∀ p ∈ fields, fieldReg p.1 = n) ∧ (fields.map Prod.fst).Nodup := by
  simp only [wrfNames, Bool.and_eq_true, List.all_eq_true, decide_eq_true_eq]

/-- A bit of a named field has the field's own value: the other fields of the register do not reach it. -/
theorem getLsbD_wrfValue_of_fits {n : RegName} {fields : List (Field × Nat)} {p : Field × Nat} {i : Nat}
    (hreg : ∀ q ∈ fields, fieldReg q.1 = n) (hnodup : (fields.map Prod.fst).Nodup) (hp : p ∈ fields)
    (hv : p.2 < 2 ^ fieldWidth p.1) (hi : i < fieldWidth p.1) :
    (wrfValue fields).getLsbD (fieldLow p.1 + i) = p.2.testBit i := by
  induction fields with
  | nil => cases hp
  | cons q rest ih =>
    obtain ⟨-, hrest⟩ := List.forall_mem_cons.1 hreg
    obtain ⟨hfresh, hnodup⟩ := List.nodup_cons.1 hnodup
    have apart {f g : Field × Nat} (hf : f ∈ q :: rest) (hg : g ∈ q :: rest) (hne : f.1 ≠ g.1) {j : Nat}
        (hj : j < fieldWidth f.1) :
        fieldLow f.1 + j < fieldLow g.1 ∨ fieldLow g.1 + fieldWidth g.1 ≤ fieldLow f.1 + j := by
      have := fields_disjoint f.1 g.1 ((hreg f hf).trans (hreg g hg).symm) hne
      omega
    rw [wrfValue, BitVec.getLsbD_or]
    obtain rfl | hp' := List.mem_cons.1 hp
    · rw [getLsbD_placeField_of_fits _ _ _ hv hi, getLsbD_wrfValue_of_outside, Bool.or_false]
      intro g hg
      exact apart hp (List.mem_cons_of_mem _ hg) (fun h => hfresh (h ▸ List.mem_map_of_mem hg)) hi
    · have hne : p.1 ≠ q.1 := fun h => hfresh (h ▸ List.mem_map_of_mem hp')
      rw [getLsbD_placeField_of_outside _ _ _ (apart hp List.mem_cons_self hne hi), Bool.false_or]
      exact ih hrest hnodup hp'

/-- A bit field that agrees with a value on the field's bits holds that value, if it fits. -/
theorem toNat_field_eq {v : Word} {low width value : Nat} (hv : value < 2 ^ width)
    (hbits : ∀ i < width, v.getLsbD (low + i) = value.testBit i) : v.toNat / 2 ^ low % 2 ^ width = value := by
  apply Nat.eq_of_testBit_eq
  intro i
  rw [Nat.testBit_mod_two_pow, Nat.testBit_div_two_pow, Nat.add_comm i low]
  by_cases hi : i < width
  · rw [← hbits i hi, BitVec.getLsbD, decide_eq_true hi, Bool.true_and]
  · rw [decide_eq_false hi, Bool.false_and,
      Nat.testBit_lt_two_pow (hv.trans_le (Nat.pow_le_pow_right (by decide) (Nat.not_lt.1 hi)))]

/-- Settles O58: the word is wrfValue, whose fields do not overlap. -/
theorem wrfPlacesNamedFieldsAndZeroElsewhere : Obligations.WrfPlacesNamedFieldsAndZeroElsewhere := by
  intro n fields s
  refine ⟨fun hnames => ⟨wrfValue fields, ?expansion, ?named, getLsbD_wrfValue_of_outside fields⟩, fun hnames => ?foreign⟩
  case expansion => rw [wrf, if_pos (wrfNames_iff.2 hnames)]
  case named =>
    obtain ⟨hreg, hnodup⟩ := hnames
    exact fun p hp hv => toNat_field_eq hv fun i hi => getLsbD_wrfValue_of_fits hreg hnodup hp hv hi
  case foreign => rw [wrf, if_neg (wrfNames_iff.not.2 hnames)]

/-! ## Bounds, refusals and written-out records -/

theorem osrOf_le (baud : Word) : osrOf baud ≤ 31 := Nat.le_of_lt_succ (baud.extractLsb' 24 5).isLt

theorem sbrOf_le (baud : Word) : sbrOf baud ≤ 8191 := Nat.le_of_lt_succ (baud.extractLsb' 0 13).isLt

/-- Settles O19, by the widths of the two fields. -/
theorem baudDivisorIsBounded : Obligations.BaudDivisorIsBounded := fun baud =>
  ⟨osrOf_le baud, sbrOf_le baud, Nat.mul_le_mul (Nat.succ_le_succ (osrOf_le baud)) (sbrOf_le baud)⟩

/-- Settles O43, by the meaning of each refusal row. -/
theorem refusalRowsAreRefusedInEveryState : Obligations.RefusalRowsAreRefusedInEveryState :=
  fun _ _ _ _ _ _ _ _ _ _ => ⟨rfl, rfl, rfl, rfl, rfl, rfl, rfl, rfl, rfl⟩

/-- The decoder on a word written out field by field, B first (30_encoding.md R90). -/
theorem decode_writtenOut (b : Block) (k c : BitVec 2) (z : BitVec 3) (o : Offset) (x : Word) :
    decode ⟨bitOfBlock b ++ k ++ c ++ z ++ o, x⟩ = decodeFields ⟨b, k, c, z, o⟩ x :=
  congrArg (decodeFields · x) (fieldsOf_descriptorOf ⟨b, k, c, z, o⟩)

/-- Settles O53: each word is of a form whose decoding is known. -/
theorem writtenOutWordsDecode : Obligations.WrittenOutWordsDecode :=
  ⟨fun x => (decode_writtenOut .uart 0 2 0 0x1C x).trans (decodeFields_aligned .uart .read x rfl),
    fun x => (decode_writtenOut .uart 1 2 0 0x10 x).trans (decodeFields_aligned .uart .write x rfl),
    fun x => (decode_writtenOut .spi 0 2 0 0x74 x).trans (decodeFields_aligned .spi .read x rfl),
    fun x => (decode_writtenOut .spi 1 2 0 0x64 x).trans (decodeFields_aligned .spi .write x rfl),
    fun x => (decode_writtenOut .spi 2 0 0 0 x).trans (decodeFields_event .spi 0 0 x),
    fun x => (decode_writtenOut .spi 2 0 0 1 x).trans (decodeFields_event .spi 0 1 x),
    fun x => (decode_writtenOut .uart 0 0 0 0x15 x).trans (decodeFields_access .uart .read 0 0x15 x),
    fun x => (decode_writtenOut .uart 1 2 0 0x1000 x).trans (decodeFields_aligned .uart .write x rfl)⟩

theorem callOfBytes_of_length_ne {bs : List Byte} (h : bs.length ≠ 8) : callOfBytes bs = .error (.wrongLength bs.length) := by
  unfold callOfBytes
  split
  · exact absurd rfl h
  · rfl

/-- Settles O54: packing keeps the record, and only a list of eight bytes is one. -/
theorem callRecordsDecodeFromBytes : Obligations.CallRecordsDecodeFromBytes :=
  ⟨decodeBytes_bytesOfCall, fun bs h => by rw [decodeBytes, callOfBytes_of_length_ne h]⟩

end Sys2Proof.Machine

namespace Sys2Proof.Machine

/-! ## Accesses that leave a quiescent block quiescent: the dispatcher's steps add nothing to the rule -/

theorem State.uartRead_eq_of_quiescent {s : State} {rule : Uart → Word × Uart} (h : (rule s.uart).2.Quiescent) :
    s.uartRead rule = { s with uart := (rule s.uart).2, result := some (rule s.uart).1 } := by
  rw [State.uartRead, h.irqUpdate]

theorem State.uartWrite_eq_of_quiescent {s : State} {rule : Uart → Uart} (h : (rule s.uart).Quiescent) :
    s.uartWrite rule = { s with uart := rule s.uart, result := none } := by
  rw [State.uartWrite, h.irqUpdate]

section
variable {s : State} (hs : s.Quiescent)
include hs

theorem State.Quiescent.spiRead_eq_of_quiescent {rule : Spi → Word × Spi} (h : (rule s.spi).2.Quiescent s.config) :
    s.spiRead rule = { s with spi := (rule s.spi).2, result := some (rule s.spi).1 } := by
  rw [State.spiRead, hs.spi.updateStatus hs.legal, h.irqUpdate hs.legal]

theorem State.Quiescent.spiWrite_eq_of_quiescent {rule : Spi → Spi} (h : (rule s.spi).Quiescent s.config) :
    s.spiWrite rule = { s with spi := rule s.spi, result := none } := by
  rw [State.spiWrite, h.updateStatus hs.legal, h.irqUpdate hs.legal]

end

/-! ## Unmapped offsets (40_regbank_irq.md R114, R115) -/

/-- The machine after a call that only emits a diagnostic in one block and returns. -/
def State.diagnosed (b : Block) (k : DiagKind) (off : Nat) (r : Option Word) (s : State) : State :=
  match b with
  | .uart => { s with uart := s.uart.diag k off, result := r }
  | .spi => { s with spi := s.spi.diag k off, result := r }

/-- The answer to an access at an unmapped offset: a read returns 0 (decision D2), a write discards V. -/
def State.unmappedAnswer (b : Block) (d : Dir) (off : Nat) (s : State) : State :=
  match d with
  | .read => s.diagnosed b (unmappedReadKind (s.config.regionBytes b) off) off (some 0)
  | .write => s.diagnosed b (unmappedWriteKind (s.config.regionBytes b) off) off none

/-- A diagnostic leaves a block quiescent, so the access changes nothing else. -/
theorem exec_unmappedInstr_of_quiescent {s : State} (hs : s.Quiescent) (b : Block) (d : Dir) (o : Offset) (v : Word) :
    exec (unmappedInstr b d o v) s = .next (s.unmappedAnswer b d o.toNat) := by
  have uart := hs.uart
  have spi := hs.spi
  cases b <;> cases d <;> refine congrArg Host.Outcome.next ?_
  · exact State.uartRead_eq_of_quiescent uart
  · exact State.uartWrite_eq_of_quiescent uart
  · exact hs.spiRead_eq_of_quiescent spi
  · exact hs.spiWrite_eq_of_quiescent spi

theorem decode_unmapped {b : Block} (d : Dir) {o : Offset} (v : Word) (aligned : o.toNat % 4 = 0)
    (unmapped : isMapped b o.toNat = false) :
    decode ⟨descriptorOf ⟨b, bitsOfDir d, 2, 0, o⟩, v⟩ = unmappedInstr b d o v := by
  rw [decode, fieldsOf_descriptorOf]
  exact decodeFields_unmapped b d v (unmappedOffset_iff.2 ⟨aligned, unmapped⟩)

/-- Both accesses of an unmapped offset, from the descriptor to the answer, with the diagnostics the offset calls for. -/
theorem unmapped_accesses {s : State} (hs : s.Quiescent) (b : Block) {o : Offset} (v : Word) {kr kw : DiagKind}
    (aligned : o.toNat % 4 = 0) (unmapped : isMapped b o.toNat = false)
    (hr : unmappedReadKind (s.config.regionBytes b) o.toNat = kr)
    (hw : unmappedWriteKind (s.config.regionBytes b) o.toNat = kw) :
    decode ⟨descriptorOf ⟨b, 0, 2, 0, o⟩, v⟩ = unmappedInstr b .read o v
      ∧ exec (unmappedInstr b .read o v) s = .next (s.diagnosed b kr o.toNat (some 0))
      ∧ decode ⟨descriptorOf ⟨b, 1, 2, 0, o⟩, v⟩ = unmappedInstr b .write o v
      ∧ exec (unmappedInstr b .write o v) s = .next (s.diagnosed b kw o.toNat none) := by
  subst hr hw
  exact ⟨decode_unmapped .read v aligned unmapped, exec_unmappedInstr_of_quiescent hs b .read o v,
    decode_unmapped .write v aligned unmapped, exec_unmappedInstr_of_quiescent hs b .write o v⟩

/-- Settles O41: inside the region an unmapped access takes the unimplemented-offset diagnostic. -/
theorem unmappedOffsetsReadZeroAndDropWrites : Obligations.UnmappedOffsetsReadZeroAndDropWrites := fun _ _ v hs aligned =>
  ⟨fun unmapped inside => unmapped_accesses hs .uart v aligned unmapped (if_pos inside) (if_pos inside),
    fun unmapped inside => unmapped_accesses hs .spi v aligned unmapped (if_pos inside) (if_pos inside)⟩

theorem regOffset_lt_regionBytes {c : Config} (hc : c.legal = true) (n : RegName) :
    regOffset n < c.regionBytes (regBlock n) := by
  simp only [Config.legal, Bool.and_eq_true, decide_eq_true_eq] at hc
  obtain ⟨⟨⟨_, uartRegion⟩, _⟩, spiRegion⟩ := hc
  cases n with
  | uart r =>
    have last : uartOffset r < 0x20 := by cases r <;> decide
    exact last.trans_le uartRegion
  | spi r =>
    have last : spiOffset r < 0x78 := by cases r <;> decide
    exact last.trans_le spiRegion

/-- No register stands at or beyond the region size. -/
theorem isMapped_eq_false_of_regionBytes_le {c : Config} (hc : c.legal = true) {b : Block} {off : Nat}
    (h : c.regionBytes b ≤ off) : isMapped b off = false := by
  obtain ⟨n, rfl, rfl⟩ | unmapped := mapped_or_unmapped b off
  · exact absurd (regOffset_lt_regionBytes hc n) (Nat.not_lt.2 h)
  · exact unmapped

/-- Settles O42: every offset beyond the region is unmapped, and an access there takes the out-of-range diagnostic. -/
theorem outOfRangeOffsetsReadZeroAndDropWrites : Obligations.OutOfRangeOffsetsReadZeroAndDropWrites := by
  intro s o v hs aligned
  have outside {b : Block} (beyond : s.config.regionBytes b ≤ o.toNat) : isMapped b o.toNat = false :=
    isMapped_eq_false_of_regionBytes_le hs.legal beyond
  refine ⟨fun beyond => ?uart, fun beyond => ?spi⟩
  case uart =>
    exact unmapped_accesses hs .uart v aligned (outside beyond) (if_neg beyond.not_gt) (if_neg beyond.not_gt)
  case spi =>
    exact unmapped_accesses hs .spi v aligned (outside beyond) (if_neg beyond.not_gt) (if_neg beyond.not_gt)

end Sys2Proof.Machine

namespace Sys2Proof.Machine

/-! ## The edges of a call (40_regbank_irq.md R122, R124) -/

/-- Between two moments the line of a block keeps its level and the block's trace grows by no edge of it. -/
structure Silent (b : Block) (was now : Bool) (before after : List Event) : Prop where
  line : now = was
  trace : ∃ events, after = before ++ events ∧ events.filter (isIrqEdge b) = []

/-- The LPUART came from an earlier state without a latched change of its line. -/
abbrev Uart.Silent (u v : Uart) : Prop := Machine.Silent .uart u.irq v.irq u.trace v.trace

@[inherit_doc Uart.Silent]
abbrev Spi.Silent (p q : Spi) : Prop := Machine.Silent .spi p.irq q.irq p.trace q.trace

section
variable {b : Block} {was now : Bool} {before after : List Event}

theorem Silent.refl : Silent b was was before before := ⟨rfl, [], (List.append_nil _).symm, rfl⟩

theorem Silent.of_append {events : List Event} (h : events.filter (isIrqEdge b) = []) :
    Silent b was was before (before ++ events) := ⟨rfl, events, rfl, h⟩

theorem Silent.trans {mid final : List Event} {last : Bool} (h : Silent b was now before mid)
    (h' : Silent b now last mid final) : Silent b was last before final := by
  obtain ⟨rfl, events, rfl, quiet⟩ := h
  obtain ⟨rfl, events', rfl, quiet'⟩ := h'
  exact ⟨rfl, events ++ events', List.append_assoc .., by rw [List.filter_append, quiet, quiet', List.append_nil]⟩

theorem filter_edge (b : Block) (was now : Bool) : (edge b was now).filter (isIrqEdge b) = edge b was now := by
  unfold edge
  split <;> simp [isIrqEdge]

/-- An IRQ update after a silent stretch leaves one edge for the whole, if the line changed over it. -/
theorem Silent.edges_of_latch (h : Silent b was now before after) (level : Bool) :
    ((after ++ edge b now level).drop before.length).filter (isIrqEdge b) = edge b was level := by
  obtain ⟨rfl, events, rfl, quiet⟩ := h
  rw [List.append_assoc, List.drop_left, List.filter_append, quiet, List.nil_append, filter_edge]

end

theorem Uart.Silent.edges_of_irqUpdate {u v : Uart} (h : u.Silent v) :
    (v.irqUpdate.trace.drop u.trace.length).filter (isIrqEdge .uart) = edge .uart u.irq v.irqUpdate.irq := by
  rw [Uart.irqUpdate_eq]
  exact h.edges_of_latch v.level

theorem Spi.Silent.edges_of_irqUpdate {p q : Spi} (h : p.Silent q) :
    (q.irqUpdate.trace.drop p.trace.length).filter (isIrqEdge .spi) = edge .spi p.irq q.irqUpdate.irq := by
  rw [Spi.irqUpdate_eq]
  exact h.edges_of_latch q.level

/-! ### The LPUART: a rule is silent, and one IRQ update ends the call -/

theorem uartWriteData_silent (v : Word) (u : Uart) : u.Silent (uartWriteData v u) := by
  unfold uartWriteData
  split
  · exact .of_append rfl
  · exact .refl

/-- Every call leaves the LPUART as an IRQ update of a silent successor; a call of the LPSPI leaves it alone. -/
theorem exec_uart_latched {i : Instr} {s t : State} (hs : s.Quiescent) (h : exec i s = .next t) :
    ∃ u, s.uart.Silent u ∧ t.uart = u.irqUpdate := by
  have fixed : s.uart = s.uart.irqUpdate := hs.uart.irqUpdate.symm
  cases i with
  | rdUartBaud | rdUartStat | rdUartCtrl | wrUartStat | wrUartCtrl | rstUart =>
    cases h
    refine ⟨_, ?_, rfl⟩
    exact .refl
  | rdUartData | wrUartBaud | rdUartUnmapped | wrUartUnmapped =>
    cases h
    refine ⟨_, ?_, rfl⟩
    exact .of_append rfl
  | wrUartData v => cases h; exact ⟨_, uartWriteData_silent v _, rfl⟩
  | evUartRxbyte b =>
    cases h
    refine ⟨_, ?_, rfl⟩
    split <;> exact .refl
  | _ => cases h <;> exact ⟨_, .refl, fixed⟩

/-! ### The LPSPI: a rule is silent, or latches its line itself and leaves a quiescent block -/

/-- What a rule of the LPSPI may have done to the line before the dispatcher's own IRQ update. -/
inductive Spi.Latched (c : Config) (p q : Spi) : Prop
  | silent (h : p.Silent q)
  | updated {r : Spi} (h : p.Silent r) (hq : q = r.irqUpdate) (quiescent : q.Quiescent c)

section
variable {c : Config} {p q : Spi}

theorem Spi.Latched.of_silent {p' : Spi} (h : p.Silent p') (hq : Spi.Latched c p' q) : p.Latched c q := by
  cases hq with
  | silent h' => exact .silent (h.trans h')
  | updated h' hq quiescent => exact .updated (h.trans h') hq quiescent

/-- The dispatcher's IRQ update finds the line of an already updated block at its level. -/
theorem Spi.Latched.updateStatus_irqUpdate (hc : c.legal = true) (h : p.Latched c q) :
    ∃ r, p.Silent r ∧ (q.updateStatus c).irqUpdate = r.irqUpdate := by
  cases h with
  | silent h => exact ⟨q.updateStatus c, h, rfl⟩
  | updated h hq quiescent =>
    refine ⟨_, h, ?_⟩
    rw [quiescent.updateStatus hc, quiescent.irqUpdate hc, hq]

theorem Spi.Settleable.updateStatus_latched (h : q.Settleable c) (hc : c.legal = true) (hq : p.Silent q) :
    p.Latched c (q.updateStatus c).irqUpdate :=
  .updated (r := q.updateStatus c) hq rfl (h.updateStatus_quiescent hc)

theorem filter_exchanges {keep : Event → Bool} {line : Nat} (h : ∀ w r, keep (.exchange line w r) = false)
    (ws answers : List Word) : (List.zipWith (fun w r => Event.exchange line w r) ws answers).filter keep = [] := by
  rw [← List.map_uncurry_zip_eq_zipWith, List.filter_eq_nil_iff, List.forall_mem_map]
  simp [Function.uncurry, h]

theorem Spi.afterBurst_silent (c : Config) (line : Nat) (answers : List Word) (p : Spi) :
    p.Silent (p.afterBurst c line answers) := by
  have lineEvent (level : Bool) : isIrqEdge .spi (.csLevel line level) = false := rfl
  have exchanges := filter_exchanges (keep := isIrqEdge .spi) (line := line) (fun _ _ => rfl) (wordsOf p.tx) answers
  exact .of_append (by simp [lineEvent, exchanges])

theorem Spi.Settleable.burst_latched (h : p.Settleable c) (hc : c.legal = true) (off : Nat) :
    p.Latched c (p.burst c off) := by
  obtain ⟨heq, -⟩ | ⟨heq, -⟩ | ⟨answers, heq, -, -, -, -, -, hlen, -⟩ :=
    Spi.burst_cases c off p h.txWords h.lines h.srClean (h.tx_le hc)
  · rw [heq]
    exact .silent .refl
  · rw [heq]
    exact .silent (.of_append rfl)
  · have moved := h.afterBurst (pcsOf p.tcr) hlen
    rw [heq, ← Spi.settle c _ moved.srClean (moved.tx_le hc)]
    exact moved.updateStatus_latched hc (p.afterBurst_silent c _ answers)

/-- At a quiescent point no line is low, so a reset emits no line event before its IRQ update. -/
theorem Spi.Settleable.reset_silent (h : p.Settleable c) : ∃ r, p.Silent r ∧ p.reset c = r.irqUpdate := by
  refine ⟨_, ?_, rfl⟩
  exact .of_append (by rw [h.lines, releaseEvents_replicate]; rfl)

theorem spiWriteCr_latched (h : p.Settleable c) (hc : c.legal = true) (v : Word) : p.Latched c (spiWriteCr c v p) := by
  unfold spiWriteCr
  split
  · obtain ⟨r, silent, heq⟩ := h.reset_silent
    exact .updated silent heq (h.reset_quiescent hc)
  split <;> exact .silent .refl

theorem spiWriteTcr_latched (h : p.Settleable c) (hc : c.legal = true) (v : Word) : p.Latched c (spiWriteTcr c v p) := by
  have stored : Spi.Settleable c { p with tcr := v } :=
    ⟨h.txWords, h.rxWords, h.txCap, h.rxCap, h.lines, h.rstClear, h.srClean⟩
  unfold spiWriteTcr
  dsimp only
  split
  · exact .of_silent (p' := { p with tcr := v }) .refl (stored.burst_latched hc 0x60)
  · exact .silent .refl

theorem spiWriteTdr_latched (h : p.Settleable c) (hc : c.legal = true) (v : Word) : p.Latched c (spiWriteTdr c v p) := by
  unfold spiWriteTdr
  split
  · exact .silent (.of_append rfl)
  split
  · exact .silent (.of_append rfl)
  · rename_i hroom
    have queued := h.setMbf.pushTx v hroom
    exact .of_silent (p' := { p.setMbf true with tx := pushWord (p.setMbf true).tx v }) .refl
      (queued.burst_latched hc 0x64)

theorem spiReadRdr_latched (h : p.Settleable c) (hc : c.legal = true) :
    ∃ r, p.Silent r ∧ (spiReadRdr c p).2.irqUpdate = r.irqUpdate := by
  unfold spiReadRdr
  split
  · exact ⟨p, .refl, rfl⟩
  · rename_i w rx' hpop
    have popped := h.popRx hpop
    refine Spi.Latched.updateStatus_irqUpdate hc (.of_silent (p' := { p with rx := rx', rdr := w }) .refl ?_)
    split
    · exact popped.burst_latched hc 0x74
    · exact .silent .refl

end

/-- Every call leaves the LPSPI as an IRQ update of a silent successor; a call of the LPUART leaves it alone. -/
theorem exec_spi_latched {i : Instr} {s t : State} (hs : s.Quiescent) (h : exec i s = .next t) :
    ∃ q, s.spi.Silent q ∧ t.spi = q.irqUpdate := by
  have hc := hs.legal
  have settleable := hs.settleable
  have fixed : s.spi = s.spi.irqUpdate := (hs.spi.irqUpdate hc).symm
  cases i with
  | rdSpiVerid | rdSpiParam | rdSpiCr | rdSpiSr | rdSpiIer | rdSpiDer | rdSpiCfgr0 | rdSpiCfgr1 | rdSpiCcr | rdSpiFcr
  | rdSpiFsr | rdSpiTcr | rdSpiTdr | rdSpiRsr | wrSpiSr | wrSpiIer | wrSpiDer | wrSpiCfgr0 | wrSpiCfgr1 | wrSpiCcr
  | wrSpiFcr =>
    cases h
    refine ⟨_, ?_, rfl⟩
    exact .refl
  | rdSpiUnmapped | wrSpiVerid | wrSpiParam | wrSpiFsr | wrSpiRsr | wrSpiRdr | wrSpiUnmapped =>
    cases h
    refine ⟨_, ?_, rfl⟩
    exact .of_append rfl
  | rdSpiRdr =>
    cases h
    rw [State.spiRead_spi, hs.spi.updateStatus hc]
    exact spiReadRdr_latched settleable hc
  | wrSpiCr v => cases h; exact (spiWriteCr_latched settleable hc v).updateStatus_irqUpdate hc
  | wrSpiTcr v => cases h; exact (spiWriteTcr_latched settleable hc v).updateStatus_irqUpdate hc
  | wrSpiTdr v => cases h; exact (spiWriteTdr_latched settleable hc v).updateStatus_irqUpdate hc
  | rstSpi => cases h; exact settleable.reset_silent
  | _ => cases h <;> exact ⟨_, .refl, fixed⟩

/-- Settles O7: each block ends the call with the IRQ update of a silent successor, and at its level, since the invariants
hold again. -/
theorem anIrqEdgeExactlyWhenTheLineChanges : Obligations.AnIrqEdgeExactlyWhenTheLineChanges := by
  intro i s t hs h
  have ht := hs.exec h
  obtain ⟨u, uartSilent, hu⟩ := exec_uart_latched hs h
  obtain ⟨q, spiSilent, hq⟩ := exec_spi_latched hs h
  refine ⟨?uartEdges, ?spiEdges, ht.uart.level, ht.spi.level ht.legal⟩
  case uartEdges =>
    rw [newUartEvents, hu]
    exact uartSilent.edges_of_irqUpdate
  case spiEdges =>
    rw [newSpiEvents, hq]
    exact spiSilent.edges_of_irqUpdate

end Sys2Proof.Machine

namespace Sys2Proof.Machine

/-! ## The access classes (40_regbank_irq.md R111, R112)

A register access is the dispatcher's steps around the rule at the register's offset. What a write stores is said once, for
the written register and every other RW register together. -/

section
variable (v : Word) (s : State)

theorem exec_writeInstr_uart (r : UartReg) :
    exec (writeInstr v (.uart r)) s = .next (s.uartWrite (uartWriteRule s.config s.clockHz (uartOffset r) v)) := by
  cases r <;> rfl

theorem exec_writeInstr_spi (r : SpiReg) :
    exec (writeInstr v (.spi r)) s = .next (s.spiWrite (spiWriteRule s.config (spiOffset r) v)) := by
  cases r <;> rfl

theorem exec_readInstr_uart (r : UartReg) :
    exec (readInstr (.uart r)) s = .next (s.uartRead (uartReadRule s.config (uartOffset r))) := by
  cases r <;> rfl

theorem exec_readInstr_spi (r : SpiReg) :
    exec (readInstr (.spi r)) s = .next (s.spiRead (spiReadRule s.config (spiOffset r))) := by
  cases r <;> rfl

theorem exec_writeInstr_next (n : RegName) : ∃ t, exec (writeInstr v n) s = .next t := by
  cases n with
  | uart r => exact ⟨_, exec_writeInstr_uart v s r⟩
  | spi r => exact ⟨_, exec_writeInstr_spi v s r⟩

end

/-! ### RW registers -/

theorem Uart.irqUpdate_stored (u : Uart) (r : UartReg) : u.irqUpdate.stored r = u.stored r := by
  rw [Uart.irqUpdate_eq]
  cases r <;> rfl

theorem uartWriteData_stored (v : Word) (u : Uart) {r : UartReg} (hr : uartClass r = .rw) :
    (uartWriteData v u).stored r = u.stored r := by
  unfold uartWriteData
  split
  · cases r with
    | baud | ctrl => rfl
    | _ => cases hr
  · rfl

/-- An LPUART write stores V in an RW register it writes, and leaves the others. -/
theorem uartWriteRule_stored (c : Config) (clockHz : Nat) (r : UartReg) (v : Word) (u : Uart) {r' : UartReg}
    (hr' : uartClass r' = .rw) :
    (uartWriteRule c clockHz (uartOffset r) v u).stored r' = if r' = r then some v else u.stored r' := by
  cases r' with
  | stat | data => cases hr'
  | baud | ctrl =>
    cases r with
    | data => exact uartWriteData_stored v u rfl
    | _ => rfl

/-- The storage effect of an LPSPI write on the RW registers: V, whole, in the register written, if it is one of them. -/
def Spi.store (v : Word) (r : SpiReg) (p : Spi) : Spi :=
  match r with
  | .cr => { p with cr := v }
  | .ier => { p with ier := v }
  | .der => { p with der := v }
  | .cfgr0 => { p with cfgr0 := v }
  | .cfgr1 => { p with cfgr1 := v }
  | .ccr => { p with ccr := v }
  | .fcr => { p with fcr := v }
  | .tcr => { p with tcr := v }
  | .verid | .param | .sr | .fsr | .tdr | .rsr | .rdr => p

theorem Spi.store_stored (c : Config) (v : Word) (r : SpiReg) (p : Spi) {r' : SpiReg} (hr' : spiClass r' = .rw) :
    (p.store v r).stored c r' = if r' = r then some v else p.stored c r' := by
  cases r' with
  | cr | ier | der | cfgr0 | cfgr1 | ccr | fcr | tcr => cases r <;> rfl
  | _ => cases hr'

theorem Spi.SameRw.refl (p : Spi) : p.SameRw p := ⟨rfl, rfl, rfl, rfl, rfl, rfl, rfl, rfl⟩

theorem Spi.SameRw.stored_eq {p q : Spi} (h : p.SameRw q) (c : Config) {r : SpiReg} (hr : spiClass r = .rw) :
    q.stored c r = p.stored c r := by
  obtain ⟨hcr, hier, hder, hcfgr0, hcfgr1, hccr, hfcr, htcr⟩ := h
  cases r with
  | cr => exact congrArg some hcr
  | ier => exact congrArg some hier
  | der => exact congrArg some hder
  | cfgr0 => exact congrArg some hcfgr0
  | cfgr1 => exact congrArg some hcfgr1
  | ccr => exact congrArg some hccr
  | fcr => exact congrArg some hfcr
  | tcr => exact congrArg some htcr
  | _ => cases hr

theorem spiWriteCr_sameRw (c : Config) {v : Word} (hrst : rstBit v = false) (p : Spi) :
    (p.store v .cr).SameRw (spiWriteCr c v p) := by
  unfold spiWriteCr
  rw [hrst, if_neg Bool.false_ne_true]
  split <;> exact .refl _

theorem spiWriteTcr_sameRw (c : Config) (v : Word) (p : Spi) : (p.store v .tcr).SameRw (spiWriteTcr c v p) := by
  unfold spiWriteTcr
  dsimp only
  split
  · exact Spi.burst_sameRw c 0x60 _
  · exact .refl _

theorem spiWriteTdr_sameRw (c : Config) (v : Word) (p : Spi) : p.SameRw (spiWriteTdr c v p) := by
  unfold spiWriteTdr
  split
  · exact .refl _
  split
  · exact .refl _
  · exact Spi.burst_sameRw c 0x64 _

/-- A write without RST does to the RW registers what its storage effect does, and no more. -/
theorem spiWriteRule_sameRw (c : Config) {r : SpiReg} {v : Word} (hrst : isRstWrite (.spi r) v = false) (p : Spi) :
    (p.store v r).SameRw (spiWriteRule c (spiOffset r) v p) := by
  cases r with
  | cr => exact spiWriteCr_sameRw c (by simpa [isRstWrite] using hrst) p
  | tcr => exact spiWriteTcr_sameRw c v p
  | tdr => exact spiWriteTdr_sameRw c v p
  | _ => exact .refl _

/-- A write without RST, seen from any RW register of either block. -/
theorem exec_writeInstr_stored {n n' : RegName} {v : Word} {s t : State} (hrst : isRstWrite n v = false)
    (hn' : classOf n' = .rw) (h : exec (writeInstr v n) s = .next t) :
    t.stored n' = if n' = n then some v else s.stored n' := by
  cases n with
  | uart r =>
    cases (exec_writeInstr_uart v s r).symm.trans h
    cases n' with
    | uart r' =>
      simp only [RegName.uart.injEq]
      exact (Uart.irqUpdate_stored _ r').trans (uartWriteRule_stored _ _ r v _ hn')
    | spi r' => rfl
  | spi r =>
    cases (exec_writeInstr_spi v s r).symm.trans h
    cases n' with
    | uart r' => rfl
    | spi r' =>
      simp only [RegName.spi.injEq]
      have kept : (spiWriteRule s.config (spiOffset r) v s.spi).SameRw
          (s.spiWrite (spiWriteRule s.config (spiOffset r) v)).spi := Spi.irqUpdate_sameRw (Spi.updateStatus s.config _)
      calc (s.spiWrite (spiWriteRule s.config (spiOffset r) v)).spi.stored s.config r'
        _ = (spiWriteRule s.config (spiOffset r) v s.spi).stored s.config r' := kept.stored_eq s.config hn'
        _ = (s.spi.store v r).stored s.config r' := (spiWriteRule_sameRw s.config hrst s.spi).stored_eq s.config hn'
        _ = if r' = r then some v else s.spi.stored s.config r' := s.spi.store_stored s.config v r hn'

/-- The write with RST leaves 0 in CR, the register it writes (42_lpspi_registers.md R166). -/
theorem exec_writeInstr_rst {n : RegName} {v : Word} {s t : State} (hrst : isRstWrite n v = true)
    (h : exec (writeInstr v n) s = .next t) : t.stored n = some 0 := by
  simp only [isRstWrite, Bool.and_eq_true, decide_eq_true_eq] at hrst
  obtain ⟨rfl, rst⟩ := hrst
  cases (exec_writeInstr_spi v s .cr).symm.trans h
  have resets : spiWriteRule s.config (spiOffset .cr) v s.spi = s.spi.reset s.config := if_pos rst
  refine congrArg some ?_
  rw [State.spiWrite_spi, resets, Spi.reset, Spi.irqUpdate_eq, Spi.irqUpdate_eq]
  rfl

/-! ### W1C registers -/

/-- Off the bit it writes, setBit changes nothing. -/
theorem setBit_and_not_bit (w : Word) (i : Nat) (b : Bool) : setBit w i b &&& ~~~bit i = w &&& ~~~bit i := by
  cases b with
  | false => simp [setBit, BitVec.and_assoc]
  | true => simp [setBit, BitVec.and_or_distrib_right]

/-- Off its three derived bits, UpdateStatus leaves SR as it is. -/
theorem srOf_and_not_derived (c : Config) (tx rx : List Byte) (sr : Word) :
    srOf c tx rx sr &&& ~~~0x01000003#32 = sr &&& ~~~0x01000003#32 := by
  rw [srOf_eq, BitVec.and_or_distrib_right, srClean_statusWord, BitVec.and_assoc, BitVec.and_self]
  exact BitVec.or_zero

theorem exec_writeInstr_w1c {n : RegName} {m v : Word} {s t : State} (hn : classOf n = .w1c m)
    (h : exec (writeInstr v n) s = .next t) :
    ∃ old new, s.stored n = some old ∧ t.stored n = some new
      ∧ new &&& ~~~handlerBits n = old &&& ~~~(v &&& m) &&& ~~~handlerBits n := by
  cases n with
  | uart r =>
    cases r with
    | stat =>
      cases hn
      cases h
      exact ⟨_, _, rfl, Uart.irqUpdate_stored _ .stat, setBit_and_not_bit (w1cWrite statW1cMask v s.uart.stat) 23 true⟩
    | _ => cases hn
  | spi r =>
    cases r with
    | sr =>
      cases hn
      cases h
      refine ⟨_, _, rfl, rfl, ?_⟩
      rw [State.spiWrite_spi, Spi.irqUpdate_eq]
      exact srOf_and_not_derived s.config _ _ (w1cWrite srW1cMask v s.spi.sr)
    | _ => cases hn

/-! ### RO registers -/

theorem spiWriteRule_of_ro (c : Config) {r : SpiReg} (hr : spiClass r = .ro) (v : Word) :
    spiWriteRule c (spiOffset r) v = spiReadOnlyWrite (spiOffset r) := by
  simp only [spiWriteRule, spiRegAt_eq_some_iff.2 rfl, hr, if_true]

theorem ro_is_spi {n : RegName} (hn : classOf n = .ro) : ∃ r, n = .spi r ∧ spiClass r = .ro := by
  cases n with
  | uart r => cases r <;> cases hn
  | spi r => exact ⟨r, rfl, hn⟩

theorem State.Quiescent.exec_writeInstr_ro {s : State} (hs : s.Quiescent) {r : SpiReg} (hr : spiClass r = .ro) (v : Word) :
    Machine.exec (writeInstr v (.spi r)) s = .next { s with
      spi := { s.spi with trace := s.spi.trace ++ [.diag .readOnlyWrite (spiOffset r)] }, result := none } := by
  have spi := hs.spi
  rw [exec_writeInstr_spi, spiWriteRule_of_ro s.config hr v]
  exact congrArg Host.Outcome.next (hs.spiWrite_eq_of_quiescent spi)

/-! ### Reads -/

/-- A register of a class that stores or derives its value has one. -/
theorem exists_stored {n : RegName} (s : State) (notWo : classOf n ≠ .wo) (notHandlers : classOf n ≠ .handlers) :
    ∃ w, s.stored n = some w := by
  cases n with
  | uart r =>
    cases r with
    | data => exact absurd rfl notHandlers
    | _ => exact ⟨_, rfl⟩
  | spi r =>
    cases r with
    | tdr => exact absurd rfl notWo
    | _ => exact ⟨_, rfl⟩

theorem uartReadRule_of_stored (c : Config) {r : UartReg} {u : Uart} {w : Word} (h : u.stored r = some w) :
    uartReadRule c (uartOffset r) u = (w, u) := by
  cases r <;> cases h <;> rfl

theorem spiReadRule_of_stored {c : Config} {r : SpiReg} {p : Spi} {w : Word} (h : p.stored c r = some w)
    (hr : r ≠ .rdr) : spiReadRule c (spiOffset r) p = (w, p) := by
  cases r with
  | rdr => exact absurd rfl hr
  | _ => cases h <;> rfl

theorem wordsOf_eq_nil_of_popWord {q : List Byte} (h : popWord q = none) : wordsOf q = [] := by
  unfold wordsOf
  split
  · cases h
  · rfl

theorem spiReadRdr_fst (c : Config) (p : Spi) : (spiReadRdr c p).1 = (wordsOf p.rx).headD 0 := by
  unfold spiReadRdr
  split
  · rename_i hpop
    rw [wordsOf_eq_nil_of_popWord hpop]
    rfl
  · rename_i w rx' hpop
    rw [(popWord_eq_some p.rx w rx').1 hpop, wordsOf_cons]
    rfl

section
variable {s : State} (hs : s.Quiescent)
include hs

theorem State.Quiescent.exec_readInstr {n : RegName} {w : Word} (hw : s.stored n = some w) (hn : n ≠ .spi .rdr) :
    Machine.exec (readInstr n) s = .next { s with result := some w } := by
  cases n with
  | uart r =>
    have rule := uartReadRule_of_stored s.config hw
    rw [exec_readInstr_uart, hs.uartRead_eq (congrArg Prod.snd rule), rule]
  | spi r =>
    have rule := spiReadRule_of_stored hw (fun hr => hn (congrArg RegName.spi hr))
    rw [exec_readInstr_spi, hs.spiRead_eq (congrArg Prod.snd rule), rule]

/-- A read of RDR returns the oldest word of rx (42_lpspi_registers.md R190). -/
theorem State.Quiescent.exec_rdSpiRdr_result {t : State} (h : Machine.exec .rdSpiRdr s = .next t) :
    t.result = s.stored (.spi .rdr) := by
  cases h
  rw [State.spiRead_result, hs.spi.updateStatus hs.legal, spiReadRdr_fst]
  rfl

theorem State.Quiescent.exec_rdSpiTdr : Machine.exec .rdSpiTdr s = .next { s with result := some 0 } :=
  congrArg Host.Outcome.next (hs.spiRead_eq rfl)

end

theorem exec_rdUartData_frame {s t : State} (h : exec .rdUartData s = .next t) :
    t.uart.ctrl = s.uart.ctrl ∧ t.uart.baud = s.uart.baud ∧ t.spi = s.spi := by
  cases h
  rw [State.uartRead_uart, Uart.irqUpdate_eq]
  exact ⟨rfl, rfl, rfl⟩

theorem wo_is_tdr {n : RegName} (hn : classOf n = .wo) : n = .spi .tdr := by
  cases n with
  | uart r => cases r <;> cases hn
  | spi r =>
    cases r with
    | tdr => rfl
    | _ => cases hn

theorem handlers_is_data {n : RegName} (hn : classOf n = .handlers) : n = .uart .data := by
  cases n with
  | uart r =>
    cases r with
    | data => rfl
    | _ => cases hn
  | spi r => cases r <;> cases hn

/-- Settles O57, class by class. -/
theorem accessClassesReadAndWriteAsDeclared : Obligations.AccessClassesReadAndWriteAsDeclared := by
  refine ⟨rfl, rfl, fun n s v => ⟨?write, fun hs => ⟨?roWrite, ?storedRead, ?woRead, ?dataRead⟩⟩⟩
  case write =>
    obtain ⟨t, h⟩ := exec_writeInstr_next v s n
    refine ⟨t, h, fun hn => ?_, fun m hn => exec_writeInstr_w1c hn h, fun hrst n' hne hn' => ?_⟩
    · cases hrst : isRstWrite n v with
      | false => rw [exec_writeInstr_stored hrst hn h, if_pos rfl]; rfl
      | true => exact exec_writeInstr_rst hrst h
    · rw [exec_writeInstr_stored hrst hn' h, if_neg hne]
  case roWrite =>
    intro hn
    obtain ⟨r, rfl, hr⟩ := ro_is_spi hn
    exact ⟨r, rfl, hs.exec_writeInstr_ro hr v⟩
  case storedRead =>
    intro notWo notHandlers
    obtain ⟨w, hw⟩ := exists_stored s notWo notHandlers
    by_cases hn : n = .spi .rdr
    · subst hn
      exact ⟨w, _, hw, rfl, (hs.exec_rdSpiRdr_result rfl).trans hw, fun hne => absurd rfl hne⟩
    · exact ⟨w, _, hw, hs.exec_readInstr hw hn, rfl, fun _ => rfl⟩
  case woRead =>
    intro hn
    obtain rfl := wo_is_tdr hn
    exact ⟨rfl, hs.exec_rdSpiTdr⟩
  case dataRead =>
    intro hn
    obtain rfl := handlers_is_data hn
    refine ⟨rfl, _, rfl, ?_⟩
    obtain ⟨rdrf, cell, result⟩ := exec_rdUartData_cell (s := s) rfl
    obtain ⟨ctrl, baud, spi⟩ := exec_rdUartData_frame (s := s) rfl
    exact ⟨result, ctrl, baud, cell, rdrf, spi⟩

end Sys2Proof.Machine

namespace Sys2Proof.Machine

/-! ## The descriptors of the mapped registers (30_encoding.md R99) -/

theorem regOffset_mod_four (n : RegName) : regOffset n % 4 = 0 := by
  obtain r | r := n <;> cases r <;> rfl

theorem toNat_ofNat_regOffset (n : RegName) : (BitVec.ofNat 24 (regOffset n)).toNat = regOffset n := by
  obtain r | r := n <;> cases r <;> rfl

/-- The descriptor of a size-4 access at a register's offset decodes to the access of that register. -/
theorem decode_register (d : Dir) (n : RegName) (v : Word) :
    decode ⟨descriptorOf ⟨regBlock n, bitsOfDir d, 2, 0, BitVec.ofNat 24 (regOffset n)⟩, v⟩ = accessInstr d v n := by
  have offset := toNat_ofNat_regOffset n
  have aligned : (BitVec.ofNat 24 (regOffset n)).toNat % 4 = 0 := by rw [offset, regOffset_mod_four]
  rw [decode, fieldsOf_descriptorOf]
  exact (decodeFields_aligned (regBlock n) d v aligned).trans (decodeAligned_mapped d v offset)

/-- The operand word of a byte-in event carries the byte in bits 7:0 (30_encoding.md R91). -/
theorem lowByte_ofNat_toNat (b : Byte) : lowByte (BitVec.ofNat 32 b.toNat) = b := by
  have fits : b.toNat < 2 ^ 8 := b.isLt
  apply BitVec.eq_of_toNat_eq
  simp only [lowByte, BitVec.extractLsb'_toNat, BitVec.toNat_ofNat, Nat.shiftRight_zero]
  omega

/-! ## The LPUART between a rule and its IRQ update -/

section
variable {u : Uart}

theorem Uart.Quiescent.statLegal (h : u.Quiescent) : u.StatLegal := h.1

/-- TDRE is set in both words of 10_state.md R29, so the transmit term of R142 is TIE alone. -/
theorem Uart.StatLegal.level_eq (h : u.StatLegal) : u.level = ((u.rie && u.rdrf) || u.tie) := by
  have tdre : u.tdre = true := by
    unfold Uart.tdre
    rcases h with h | h <;> rw [h] <;> decide
  rw [u.level_eq_terms, tdre, Bool.and_true]

theorem Uart.StatLegal.irqUpdate_eq (h : u.StatLegal) {l : Bool} (hl : ((u.rie && u.rdrf) || u.tie) = l) :
    u.irqUpdate = { u with irq := l, trace := u.trace ++ edge .uart u.irq l } := by
  rw [Uart.irqUpdate_eq, h.level_eq, hl]

theorem Uart.StatLegal.setRdrf_true (h : u.StatLegal) : u.setRdrf true = { u with stat := 0x00A00000 } := by
  have full : setBit u.stat 21 true = 0x00A00000 := by rcases h with h | h <;> rw [h] <;> decide
  rw [Uart.setRdrf, full]

theorem Uart.StatLegal.setRdrf_false (h : u.StatLegal) : u.setRdrf false = { u with stat := 0x00800000 } := by
  have empty : setBit u.stat 21 false = 0x00800000 := by rcases h with h | h <;> rw [h] <;> decide
  rw [Uart.setRdrf, empty]

theorem Uart.canReceive_iff : u.canReceive = true ↔ u.re = true ∧ u.rdrf = false := by
  simp [Uart.canReceive]

end

/-- Settles O5, by the bits of the two-source level. -/
theorem uartLevelIsTheTwoTermOr : Obligations.UartLevelIsTheTwoTermOr := Uart.level_eq_terms

/-! ## TIE and the line (41_lpuart.md R145) -/

@[simp] theorem Uart.irqUpdate_ctrl (u : Uart) : u.irqUpdate.ctrl = u.ctrl := by rw [Uart.irqUpdate_eq]

theorem uartWriteData_ctrl (v : Word) (u : Uart) : (uartWriteData v u).ctrl = u.ctrl := by
  unfold uartWriteData
  split <;> rfl

theorem uartRxByte_ctrl (b : Byte) (u : Uart) : (uartRxByte b u).ctrl = u.ctrl := by
  rw [uartRxByte, Uart.irqUpdate_ctrl]
  split <;> rfl

/-- A call keeps the CTRL of the LPUART unless it writes it or resets the block. -/
theorem exec_uartCtrl_cases {i : Instr} {s t : State} (h : exec i s = .next t) :
    t.uart.ctrl = s.uart.ctrl ∨ (∃ v, i = .wrUartCtrl v ∧ t.uart.ctrl = v) ∨ i = .rstUart := by
  cases i with
  | wrUartCtrl v => cases h; exact .inr (.inl ⟨v, rfl, Uart.irqUpdate_ctrl _⟩)
  | rstUart => exact .inr (.inr rfl)
  | wrUartData v => cases h; exact .inl ((Uart.irqUpdate_ctrl _).trans (uartWriteData_ctrl v _))
  | evUartRxbyte b => cases h; exact .inl (uartRxByte_ctrl b _)
  | rdUartBaud | rdUartStat | rdUartCtrl | rdUartData | rdUartUnmapped | wrUartBaud | wrUartStat | wrUartUnmapped =>
    cases h; exact .inl (Uart.irqUpdate_ctrl _)
  | _ => cases h <;> exact .inl rfl

theorem Uart.Quiescent.irq_of_tie {u : Uart} (h : u.Quiescent) (tie : u.tie = true) : u.irq = true := by
  rw [h.level, h.statLegal.level_eq, tie, Bool.or_true]

/-- Settles O8: the state after the call is a quiescent point too, so a low line there means that TIE has been cleared. -/
theorem tieHoldsTheUartLineHigh : Obligations.TieHoldsTheUartLineHigh := by
  intro s hs tie
  refine ⟨hs.uart.irq_of_tie tie, fun i t h low => ?_⟩
  have cleared : t.uart.tie = false :=
    Bool.eq_false_iff.2 fun still => Bool.eq_false_iff.1 low ((hs.exec h).uart.irq_of_tie still)
  obtain kept | ⟨v, rfl, rfl⟩ | rfl := exec_uartCtrl_cases h
  · rw [Uart.tie, kept] at cleared
    cases tie.symm.trans cleared
  · exact .inl ⟨_, rfl, cleared⟩
  · exact .inr rfl

/-! ## The registers of the LPUART (41_lpuart.md R132 to R140) -/

theorem Uart.Quiescent.exec_readInstr {s : State} (hs : s.uart.Quiescent) {r : UartReg} {w : Word}
    (hw : s.uart.stored r = some w) : exec (readInstr (.uart r)) s = .next { s with result := some w } := by
  rw [exec_readInstr_uart, State.uartRead, uartReadRule_of_stored s.config hw, hs.irqUpdate]

/-- A write of an RW register leaves a quiescent LPUART, from which the register reads as V. -/
theorem Uart.Quiescent.exec_readInstr_of_written {s t : State} (hs : s.uart.Quiescent) {r : UartReg} {v : Word}
    (hr : uartClass r = .rw) (h : exec (writeInstr v (.uart r)) s = .next t) :
    exec (readInstr (.uart r)) t = .next { t with result := some v } := by
  have holds : t.uart.stored r = some v := (exec_writeInstr_stored (n' := .uart r) rfl hr h).trans (if_pos rfl)
  refine Uart.Quiescent.exec_readInstr ?_ holds
  cases r with
  | baud | ctrl => cases h; exact Uart.StatLegal.irqUpdate_quiescent hs.statLegal
  | stat | data => cases hr

/-- Settles O9, by the value each register stores. -/
theorem uartStoredRegistersReadBack : Obligations.UartStoredRegistersReadBack := fun _ x hs =>
  ⟨decode_register .read (.uart .baud) x, hs.exec_readInstr (r := .baud) rfl,
    decode_register .read (.uart .stat) x, hs.exec_readInstr (r := .stat) rfl, hs.statLegal,
    decode_register .read (.uart .ctrl) x, hs.exec_readInstr (r := .ctrl) rfl,
    fun _ h => hs.exec_readInstr_of_written (r := .baud) rfl h,
    fun _ h => hs.exec_readInstr_of_written (r := .ctrl) rfl h⟩

/-- The DATA read as a whole: RDRF is clear after it, so only TIE still holds the line. -/
theorem Uart.Quiescent.exec_rdUartData {s : State} (hs : s.uart.Quiescent) :
    exec .rdUartData s = .next { s with
      uart := { s.uart with
        stat := 0x00800000
        irq := s.uart.tie
        trace := s.uart.trace ++ [.rxRoom] ++ edge .uart s.uart.irq s.uart.tie }
      result := some (BitVec.ofNat 32 s.uart.rxCell.toNat) } := by
  have rule : uartReadData s.uart
      = (BitVec.ofNat 32 s.uart.rxCell.toNat, { s.uart with stat := 0x00800000 }.emit .rxRoom) := by
    rw [uartReadData, dataValue_eq, hs.statLegal.setRdrf_false]
  have legal : ({ s.uart with stat := 0x00800000 }.emit .rxRoom).StatLegal := .inl rfl
  refine congrArg Host.Outcome.next ?_
  rw [State.uartRead, rule, legal.irqUpdate_eq (l := s.uart.tie) (by simp [Uart.rdrf, Uart.tie])]
  rfl

/-- Settles O10, by the whole next state of the read. -/
theorem uartDataReadReturnsTheCellAndClearsRdrf : Obligations.UartDataReadReturnsTheCellAndClearsRdrf :=
  fun _ x hs => ⟨decode_register .read (.uart .data) x, hs.exec_rdUartData⟩

theorem osrOf_eq (v : Word) : osrOf v = v.toNat / 2 ^ 24 % 32 := by
  rw [osrOf, BitVec.extractLsb'_toNat, Nat.shiftRight_eq_div_pow]

theorem sbrOf_eq (v : Word) : sbrOf v = v.toNat % 8192 := by
  rw [sbrOf, BitVec.extractLsb'_toNat, Nat.shiftRight_zero]

theorem baudRate_of_zero_sbr (clk osr : Nat) : baudRate clk osr 0 = 0 := rfl

/-- Off a zero divisor the rate is the floor of the quotient. -/
theorem baudRate_bounds (clk osr : Nat) {sbr : Nat} (h : sbr ≠ 0) :
    baudRate clk osr sbr * ((osr + 1) * sbr) ≤ clk ∧ clk < (baudRate clk osr sbr + 1) * ((osr + 1) * sbr) := by
  have divisor : (osr + 1) * sbr ≠ 0 := Nat.mul_ne_zero (Nat.succ_ne_zero osr) h
  simp only [baudRate, if_neg divisor]
  exact ⟨Nat.div_mul_le_self .., (Nat.div_lt_iff_lt_mul (Nat.pos_of_ne_zero divisor)).1 (Nat.lt_succ_self _)⟩

/-- Settles O11: neither the line nor STAT reads BAUD, so the dispatcher adds nothing to the rule. -/
theorem uartBaudWriteStoresAndReportsTheRate : Obligations.UartBaudWriteStoresAndReportsTheRate := by
  intro s v hs
  refine ⟨decode_register .write (.uart .baud) v, baudRate s.clockHz (osrOf v) (sbrOf v), ?_, ?_, ?_⟩
  · exact congrArg Host.Outcome.next (State.uartWrite_eq_of_quiescent (rule := uartWriteBaud s.clockHz v) hs)
  · intro zero
    rw [sbrOf_eq, zero, baudRate_of_zero_sbr]
  · intro nonzero
    rw [← sbrOf_eq] at nonzero ⊢
    rw [← osrOf_eq]
    exact baudRate_bounds s.clockHz (osrOf v) nonzero

/-- Settles O12: the rule is the masked clear, then TDRE; at a quiescent point no bit in the mask is set, and TDRE is. -/
theorem uartStatWriteClearsNothingSoftwareCanSee : Obligations.UartStatWriteClearsNothingSoftwareCanSee := by
  intro s v
  refine ⟨decode_register .write (.uart .stat) v, ⟨_, rfl, Uart.irqUpdate_stat _⟩, fun hs => ?_⟩
  refine congrArg Host.Outcome.next ?_
  rw [State.uartWrite, hs.statLegal.uartWriteStat_eq v, hs.irqUpdate]

/-- Settles O13: the level of the block with V in CTRL reads the new enables. -/
theorem uartCtrlWriteStoresAndMovesTheLine : Obligations.UartCtrlWriteStoresAndMovesTheLine := by
  intro s v hs
  have legal : (uartWriteCtrl v s.uart).StatLegal := hs.statLegal
  refine ⟨decode_register .write (.uart .ctrl) v, congrArg Host.Outcome.next ?_⟩
  rw [State.uartWrite, legal.irqUpdate_eq rfl]
  rfl

theorem dataByte_eq (v : Word) : dataByte v = BitVec.ofNat 8 v.toNat := by
  apply BitVec.eq_of_toNat_eq
  rw [dataByte, BitVec.extractLsb'_toNat, BitVec.toNat_ofNat, Nat.shiftRight_zero]

/-- A DATA write only sends: TDRE is set already. -/
theorem Uart.StatLegal.uartWriteData_eq {u : Uart} (h : u.StatLegal) (v : Word) :
    uartWriteData v u
      = { u with trace := u.trace ++ (if u.te then [.txByte (BitVec.ofNat 8 v.toNat)] else []) } := by
  have sent : (u.emit (.txByte (dataByte v))).StatLegal := h
  unfold uartWriteData
  split
  · rw [sent.setTdre_eq, dataByte_eq, Uart.emit]
  · rw [List.append_nil]

/-- Settles O14: a trace that grows moves no line. -/
theorem uartDataWriteSendsOneByteWhenEnabled : Obligations.UartDataWriteSendsOneByteWhenEnabled := by
  intro s v hs
  have rule := hs.statLegal.uartWriteData_eq v
  have quiescent : (uartWriteData v s.uart).Quiescent := by rw [rule]; exact hs
  refine ⟨decode_register .write (.uart .data) v, congrArg Host.Outcome.next ?_⟩
  rw [State.uartWrite_eq_of_quiescent quiescent, rule]

/-! ## The events of the LPUART (41_lpuart.md R131, R141) -/

/-- The byte-in event with room, as a whole: RDRF is set after it, so RIE raises the line as TIE does. -/
theorem Uart.Quiescent.exec_evUartRxbyte {s : State} (hs : s.uart.Quiescent) (room : s.uart.canReceive = true) (b : Byte) :
    exec (.evUartRxbyte b) s = .next { s with
      uart := { s.uart with
        rxCell := b
        stat := 0x00A00000
        irq := s.uart.rie || s.uart.tie
        trace := s.uart.trace ++ edge .uart s.uart.irq (s.uart.rie || s.uart.tie) }
      result := none } := by
  have stored : { s.uart with rxCell := b }.StatLegal := hs.statLegal
  have taken : { s.uart with rxCell := b, stat := 0x00A00000 }.StatLegal := .inr rfl
  refine congrArg Host.Outcome.next ?_
  rw [State.uartEvent, uartRxByte_of_taken b (Uart.canReceive_iff.1 room), stored.setRdrf_true,
    taken.irqUpdate_eq (l := s.uart.rie || s.uart.tie) (by simp [Uart.rdrf, Uart.rie, Uart.tie])]

theorem Uart.Quiescent.exec_evUartRxbyte_of_no_room {s : State} (hs : s.uart.Quiescent)
    (noRoom : s.uart.canReceive = false) (b : Byte) : exec (.evUartRxbyte b) s = .next { s with result := none } := by
  have dropped : ¬(s.uart.re = true ∧ s.uart.rdrf = false) := by
    rw [← Uart.canReceive_iff, noRoom]
    exact Bool.false_ne_true
  refine congrArg Host.Outcome.next ?_
  rw [State.uartEvent, uartRxByte_of_dropped b dropped, hs.irqUpdate]

/-- Settles O15, the byte taken and the byte dropped. -/
theorem uartByteIsTakenOnlyWhenThereIsRoom : Obligations.UartByteIsTakenOnlyWhenThereIsRoom := by
  intro s b hs
  refine ⟨?decode, Uart.canReceive_iff, fun room => hs.exec_evUartRxbyte room b,
    fun noRoom => hs.exec_evUartRxbyte_of_no_room noRoom b⟩
  case decode =>
    calc decode ⟨0x40000001, BitVec.ofNat 32 b.toNat⟩
      _ = decodeFields ⟨.uart, 2, 0, 0, 1⟩ (BitVec.ofNat 32 b.toNat) := decode_writtenOut .uart 2 0 0 1 _
      _ = .evUartRxbyte (lowByte (BitVec.ofNat 32 b.toNat)) := decodeFields_event .uart 0 1 _
      _ = .evUartRxbyte b := by rw [lowByte_ofNat_toNat]

/-- Settles O16, by the reset of the block. -/
theorem uartResetRestoresEveryField : Obligations.UartResetRestoresEveryField := by
  intro s x
  refine ⟨(decode_writtenOut .uart 2 0 0 0 x).trans (decodeFields_event .uart 0 0 x), congrArg Host.Outcome.next ?_⟩
  rw [State.uartEvent, Uart.reset_eq]

/-- Settles O18: the event fills the cell with the byte, and the read finds it there. -/
theorem uartReturnsTheByteItTook : Obligations.UartReturnsTheByteItTook := by
  intro s b hs room
  obtain ⟨t, ht⟩ : ∃ t, exec (.evUartRxbyte b) s = .next t := ⟨_, hs.uart.exec_evUartRxbyte room b⟩
  obtain ⟨full, cell⟩ := exec_evUartRxbyte_taken (Uart.canReceive_iff.1 room) ht
  obtain ⟨u, hu⟩ : ∃ u, exec .rdUartData t = .next u := ⟨_, (hs.exec ht).uart.exec_rdUartData⟩
  obtain ⟨empty, -, result⟩ := exec_rdUartData_cell hu
  have noRoom : t.uart.canReceive = false := by rw [Uart.canReceive, full, Bool.not_true, Bool.and_false]
  exact ⟨t, u, ht, full, noRoom, hu, cell ▸ result, empty⟩

end Sys2Proof.Machine

namespace Sys2Proof.Machine

/-! ## The LPSPI registers (42_lpspi_registers.md R160 to R191)

A write ends with UpdateStatus and IrqUpdate, which bring the block its rule leaves to `Spi.settled`; where that block is
quiescent they add nothing. -/

@[simp] theorem Spi.irqUpdate_sr (p : Spi) : p.irqUpdate.sr = p.sr := by rw [Spi.irqUpdate_eq]

@[simp] theorem Spi.irqUpdate_tx (p : Spi) : p.irqUpdate.tx = p.tx := by rw [Spi.irqUpdate_eq]

@[simp] theorem Spi.irqUpdate_rx (p : Spi) : p.irqUpdate.rx = p.rx := by rw [Spi.irqUpdate_eq]

/-! ### What the derived bits of SR say at a quiescent point (10_state.md R60) -/

section
variable {c : Config} {p : Spi} (h : p.Quiescent c)
include h

theorem Spi.Quiescent.sr_eq : p.sr = statusWord c p.tx p.rx := by
  obtain ⟨-, -, -, -, sr, -⟩ := h
  exact sr

theorem Spi.Quiescent.getLsbD_sr {j : Nat} (hj : j < 32) :
    p.sr.getLsbD j
      = ((decide (j = 0) && tdfOf c p.tx) || (decide (j = 1) && rdfOf p.rx) || (decide (j = 24) && mbfOf p.tx)) := by
  rw [h.sr_eq, getLsbD_statusWord c p.tx p.rx j hj]

theorem Spi.Quiescent.tdf_eq : p.tdf = tdfOf c p.tx := by
  rw [Spi.tdf, h.getLsbD_sr (by omega)]
  simp

theorem Spi.Quiescent.rdf_eq : p.rdf = rdfOf p.rx := by
  rw [Spi.rdf, h.getLsbD_sr (by omega)]
  simp

theorem Spi.Quiescent.mbf_eq : p.mbf = mbfOf p.tx := by
  rw [Spi.mbf, h.getLsbD_sr (by omega)]
  simp

/-- The line that any enables give with the FIFOs of a quiescent block, on the bits of SR (43_lpspi_transfer.md R220). -/
theorem Spi.Quiescent.spiLine_eq (ier : Word) :
    spiLine c ier p.tx p.rx = ((ier.getLsbD 0 && p.tdf) || (ier.getLsbD 1 && p.rdf)) := by
  rw [h.tdf_eq, h.rdf_eq]
  rfl

end

/-! ### Reads -/

/-- Settles O20: each read answers what its register stores, which for SR and RSR is what the FIFOs say. -/
theorem spiStoredRegistersRead : Obligations.SpiStoredRegistersRead := by
  intro s x hs
  obtain ⟨-, -, -, -, sr, -, rsr, -, -, rst⟩ := hs.spi
  exact ⟨decode_register .read (.spi .cr) x, hs.exec_readInstr (n := .spi .cr) rfl nofun, rst,
    decode_register .read (.spi .sr) x, hs.exec_readInstr (n := .spi .sr) (congrArg some sr) nofun,
    decode_register .read (.spi .ier) x, hs.exec_readInstr (n := .spi .ier) rfl nofun,
    decode_register .read (.spi .tcr) x, hs.exec_readInstr (n := .spi .tcr) rfl nofun,
    decode_register .read (.spi .rsr) x, hs.exec_readInstr (n := .spi .rsr) (congrArg some rsr) nofun⟩

/-- Settles O21: each read answers what its register stores; FSR stores the counts, and TDR nothing. -/
theorem spiConstantAndStorageRegistersRead : Obligations.SpiConstantAndStorageRegistersRead := by
  intro s x hs
  obtain ⟨-, -, -, -, -, fsr, -⟩ := hs.spi
  exact ⟨decode_register .read (.spi .verid) x, hs.exec_readInstr (n := .spi .verid) rfl nofun,
    decode_register .read (.spi .param) x, hs.exec_readInstr (n := .spi .param) rfl nofun,
    decode_register .read (.spi .der) x, hs.exec_readInstr (n := .spi .der) rfl nofun,
    decode_register .read (.spi .cfgr0) x, hs.exec_readInstr (n := .spi .cfgr0) rfl nofun,
    decode_register .read (.spi .cfgr1) x, hs.exec_readInstr (n := .spi .cfgr1) rfl nofun,
    decode_register .read (.spi .ccr) x, hs.exec_readInstr (n := .spi .ccr) rfl nofun,
    decode_register .read (.spi .fcr) x, hs.exec_readInstr (n := .spi .fcr) rfl nofun,
    decode_register .read (.spi .fsr) x, hs.exec_readInstr (n := .spi .fsr) (congrArg some fsr) nofun,
    decode_register .read (.spi .tdr) x, hs.exec_rdSpiTdr⟩

/-! ### Writes -/

section
variable {s : State} (hs : s.Quiescent) {r : SpiReg} {v : Word} {p : Spi}
include hs

/-- A write ends with the block its rule leaves, brought up to date. -/
theorem State.Quiescent.exec_writeSpi_settled (rule : spiWriteRule s.config (spiOffset r) v s.spi = p)
    (hp : p.Settleable s.config) :
    Machine.exec (writeInstr v (.spi r)) s = .next { s with spi := p.settled s.config, result := none } := by
  rw [exec_writeInstr_spi, State.spiWrite, rule, Spi.settle s.config p hp.srClean (hp.tx_le hs.legal)]

theorem State.Quiescent.exec_writeSpi (rule : spiWriteRule s.config (spiOffset r) v s.spi = p)
    (hp : p.Quiescent s.config) :
    Machine.exec (writeInstr v (.spi r)) s = .next { s with spi := p, result := none } := by
  rw [hs.exec_writeSpi_settled rule hp.settleable, hp.settled]

/-- An RW register that has been written reads as V. -/
theorem State.Quiescent.exec_readSpi_of_written {t : State} (hr : spiClass r = .rw)
    (hrst : isRstWrite (.spi r) v = false) (h : Machine.exec (writeInstr v (.spi r)) s = .next t) :
    Machine.exec (readInstr (.spi r)) t = .next { t with result := some v } := by
  have holds : t.spi.stored t.config r = some v :=
    (exec_writeInstr_stored (n' := .spi r) hrst hr h).trans (if_pos rfl)
  refine (hs.exec h).exec_readInstr (n := .spi r) holds ?_
  rintro ⟨⟩
  cases hr

end

/-- With other enables only the line of a quiescent block is out of date. -/
theorem Spi.Quiescent.settled_of_ier {c : Config} {p : Spi} (h : p.Quiescent c) (ier : Word) :
    ({ p with ier := ier } : Spi).settled c
      = { p with
        ier := ier
        irq := (ier.getLsbD 0 && p.tdf) || (ier.getLsbD 1 && p.rdf)
        trace := p.trace ++ edge .spi p.irq ((ier.getLsbD 0 && p.tdf) || (ier.getLsbD 1 && p.rdf)) } := by
  rw [← h.spiLine_eq ier]
  obtain ⟨-, -, -, -, sr, fsr, rsr, -⟩ := h
  simp only [Spi.settled, ← sr, ← fsr, ← rsr]

/-- Settles O22: no other invariant reads IER. -/
theorem spiIerWriteStoresAndMovesTheLine : Obligations.SpiIerWriteStoresAndMovesTheLine := by
  intro s v hs
  have stored : Spi.Settleable s.config { s.spi with ier := v } :=
    have before := hs.settleable
    ⟨before.txWords, before.rxWords, before.txCap, before.rxCap, before.lines, before.rstClear, before.srClean⟩
  refine ⟨decode_register .write (.spi .ier) v, ?_⟩
  rw [← hs.spi.settled_of_ier v]
  exact hs.exec_writeSpi_settled (r := .ier) rfl stored

/-- Settles O23: no invariant reads FCR, and it reads back as V. -/
theorem spiFcrWriteHasNoOtherEffect : Obligations.SpiFcrWriteHasNoOtherEffect := fun _ v hs =>
  ⟨decode_register .write (.spi .fcr) v, hs.exec_writeSpi (r := .fcr) rfl hs.spi,
    fun _ h => hs.exec_readSpi_of_written (r := .fcr) rfl rfl h⟩

/-- Settles O24: no invariant reads these registers. -/
theorem spiStorageWritesHaveNoOtherEffect : Obligations.SpiStorageWritesHaveNoOtherEffect := fun _ _ hs =>
  ⟨hs.exec_writeSpi (r := .der) rfl hs.spi, hs.exec_writeSpi (r := .cfgr0) rfl hs.spi,
    hs.exec_writeSpi (r := .cfgr1) rfl hs.spi, hs.exec_writeSpi (r := .ccr) rfl hs.spi⟩

/-- Settles O25, by the rule of a write to an RO register. -/
theorem spiReadOnlyWritesAreDropped : Obligations.SpiReadOnlyWritesAreDropped := fun _ v hs =>
  ⟨decode_register .write (.spi .verid) v, hs.exec_writeInstr_ro (r := .verid) rfl v,
    decode_register .write (.spi .param) v, hs.exec_writeInstr_ro (r := .param) rfl v,
    decode_register .write (.spi .fsr) v, hs.exec_writeInstr_ro (r := .fsr) rfl v,
    decode_register .write (.spi .rsr) v, hs.exec_writeInstr_ro (r := .rsr) rfl v,
    decode_register .write (.spi .rdr) v, hs.exec_writeInstr_ro (r := .rdr) rfl v⟩

/-- The mask of SR is the whole word (decision D11). -/
theorem w1cWrite_srW1cMask (v reg : Word) : w1cWrite srW1cMask v reg = reg &&& ~~~v := by
  have whole : srW1cMask = BitVec.allOnes 32 := rfl
  rw [w1cWrite, whole, BitVec.and_allOnes]

/-- Settles O26: the rule is the clear over the whole word, then UpdateStatus puts the derived bits back. -/
theorem spiSrWriteIsWriteOneToClear : Obligations.SpiSrWriteIsWriteOneToClear := by
  intro s v
  refine ⟨decode_register .write (.spi .sr) v, ⟨_, rfl, ?newSr, Spi.irqUpdate_tx _, Spi.irqUpdate_rx _⟩,
    fun hs => hs.exec_wrSpiSr v⟩
  case newSr =>
    have cleared : (spiWriteSr v s.spi).sr = s.spi.sr &&& ~~~v := w1cWrite_srW1cMask v s.spi.sr
    rw [State.spiWrite_spi, Spi.irqUpdate_sr, Spi.updateStatus_sr, srOf_eq, cleared]
    rfl

/-! ### CR and the reset -/

theorem spiWriteCr_of_rst (c : Config) {v : Word} (p : Spi) (rst : v.getLsbD 1 = true) : spiWriteCr c v p = p.reset c :=
  if_pos rst

theorem spiWriteCr_of_rstf (c : Config) {v : Word} (p : Spi) (rst : v.getLsbD 1 = false) (rstf : v.getLsbD 9 = true) :
    spiWriteCr c v p = { p with tx := [], rx := [], cr := v } := by
  rw [spiWriteCr, rstBit, rst, if_neg Bool.false_ne_true, rstfBit, rstf, if_pos rfl]

theorem spiWriteCr_of_store (c : Config) {v : Word} (p : Spi) (rst : v.getLsbD 1 = false) (rstf : v.getLsbD 9 = false) :
    spiWriteCr c v p = { p with cr := v } := by
  rw [spiWriteCr, rstBit, rst, if_neg Bool.false_ne_true, rstfBit, rstf, if_neg Bool.false_ne_true]

/-- At a quiescent point no line is low, so a reset releases none. -/
theorem Spi.Quiescent.reset_eq {c : Config} {p : Spi} (h : p.Quiescent c) (hc : c.legal = true) :
    p.reset c
      = { (Spi.created c) with peerAnswers := p.peerAnswers, trace := p.trace ++ edge .spi p.irq false } := by
  have lines := h.settleable.lines
  rw [Spi.reset_eq c p hc (by rw [lines, List.length_replicate]), lines, releaseEvents_replicate, List.append_nil]

/-- A CR write with RST, as a whole. -/
theorem State.Quiescent.exec_wrSpiCr_rst {s : State} (hs : s.Quiescent) {v : Word} (rst : v.getLsbD 1 = true) :
    Machine.exec (.wrSpiCr v) s = .next { s with
      spi := { (Spi.created s.config) with
        peerAnswers := s.spi.peerAnswers
        trace := s.spi.trace ++ edge .spi s.spi.irq false }
      result := none } := by
  rw [← hs.spi.reset_eq hs.legal]
  exact hs.exec_writeSpi (r := .cr) (spiWriteCr_of_rst s.config s.spi rst) (hs.settleable.reset_quiescent hs.legal)

/-- Settles O27: the three ways of a CR write. -/
theorem spiCrWriteResetsClearsOrStores : Obligations.SpiCrWriteResetsClearsOrStores := by
  intro s v hs
  have settleable := spiWriteCr_settleable hs.settleable hs.legal v
  refine ⟨decode_register .write (.spi .cr) v, hs.exec_wrSpiCr_rst, fun rst rstf => ?clear, fun rst rstf => ?store⟩
  case clear =>
    have rule := spiWriteCr_of_rstf s.config s.spi rst rstf
    exact hs.exec_writeSpi_settled (r := .cr) rule (rule ▸ settleable)
  case store =>
    obtain ⟨txw, rxw, tx, rx, sr, fsr, rsr, cs, irq, -⟩ := hs.spi
    exact hs.exec_writeSpi (r := .cr) (spiWriteCr_of_store s.config s.spi rst rstf)
      ⟨txw, rxw, tx, rx, sr, fsr, rsr, cs, irq, rst⟩

/-- Settles O28, by the reset of the block from any state. -/
theorem spiResetRestoresEveryField : Obligations.SpiResetRestoresEveryField := by
  intro s x lines hc
  refine ⟨(decode_writtenOut .spi 2 0 0 0 x).trans (decodeFields_event .spi 0 0 x), congrArg Host.Outcome.next ?_⟩
  rw [State.spiEvent, Spi.reset_eq s.config s.spi hc lines, releaseEvents_eq, lines]
  simp only [Nat.zero_add]

/-! ### The module state (42_lpspi_registers.md R191) -/

theorem mbfOf_eq_true_iff (tx : List Byte) : mbfOf tx = true ↔ tx ≠ [] := by simp [mbfOf, used]

theorem Spi.Quiescent.mbf_eq_true_iff {c : Config} {p : Spi} (h : p.Quiescent c) : p.mbf = true ↔ p.tx ≠ [] := by
  rw [h.mbf_eq, mbfOf_eq_true_iff]

theorem Spi.Quiescent.moduleState_iffs {c : Config} {p : Spi} (h : p.Quiescent c) :
    (p.moduleState = .disabled ↔ p.men = false ∧ p.tx = [])
      ∧ (p.moduleState = .disabledStalled ↔ p.men = false ∧ p.tx ≠ [])
      ∧ (p.moduleState = .idle ↔ p.men = true ∧ p.tx = [])
      ∧ (p.moduleState = .busy ↔ p.men = true ∧ p.tx ≠ []) := by
  have busy := h.mbf_eq_true_iff
  by_cases empty : p.tx = [] <;> cases men : p.men <;> simp [Spi.moduleState, busy, empty, men]

/-- Settles O31: MBF says whether tx holds words, and the block after the reset is a quiescent one with MEN clear and tx
empty. -/
theorem moduleStatesAreReadOffMenAndTx : Obligations.ModuleStatesAreReadOffMenAndTx := by
  intro s hs
  obtain ⟨disabled, stalled, idle, busy⟩ := hs.spi.moduleState_iffs
  refine ⟨disabled, stalled, idle, busy, fun v t rst h => ?reset⟩
  case reset =>
    have ht := hs.exec h
    cases (hs.exec_wrSpiCr_rst rst).symm.trans h
    exact ⟨ht.spi.moduleState_iffs.1.2 ⟨BitVec.getLsbD_zero, rfl⟩, rfl⟩

/-! ### The calls that run a burst (43_lpspi_transfer.md R210, R211) -/

theorem Spi.burst_of_disabled (c : Config) (off : Nat) {p : Spi} (men : p.men = false) : p.burst c off = p := if_pos men

section
variable {c : Config} {p q : Spi} {off : Nat}

/-- What a burst makes of a block, brought up to date: a burst that ran has done so already. -/
theorem Spi.Settleable.burst_settled (h : p.Settleable c) (hc : c.legal = true) (off : Nat) :
    ∃ q, p.BurstOutcome c off q ∧ (p.burst c off).settled c = q.settled c := by
  obtain ⟨heq, outcome⟩ | ⟨heq, outcome, -⟩ | ⟨answers, heq, outcome, -⟩ :=
    Spi.burst_cases c off p h.txWords h.lines h.srClean (h.tx_le hc)
  · exact ⟨_, outcome, by rw [heq]⟩
  · exact ⟨_, outcome, by rw [heq]⟩
  · exact ⟨_, outcome, by rw [heq, Spi.settled_settled]⟩

/-- A burst with no word to send changes nothing. -/
theorem Spi.BurstOutcome.of_tx_nil (h : p.BurstOutcome c off q) (tx : p.tx = []) : q = p := by
  have held : p.men = false ∨ used p.tx < 4 ∨ free c.rxCap p.rx < 4 := .inr (.inl (by rw [tx]; decide))
  rwa [Spi.BurstOutcome, if_pos held] at h

/-- A burst of one word with rx empty swaps it for the answer that the host lined up. -/
theorem Spi.BurstOutcome.of_one_word (h : p.BurstOutcome c off q) (hc : c.legal = true) (men : p.men = true)
    {v r : Word} {rest : List Word} (tx : p.tx = fifoOfWords [v]) (rx : p.rx = []) (valid : pcsOf p.tcr < c.numCs)
    (peer : p.peerAnswers = r :: rest) :
    q = { p with
      tx := []
      rx := fifoOfWords [r]
      peerAnswers := rest
      trace := p.trace ++ [.csLevel (pcsOf p.tcr) false, .exchange (pcsOf p.tcr) v r, .csLevel (pcsOf p.tcr) true] } := by
  have room : 4 ≤ free c.rxCap p.rx := by
    rw [rx]
    exact (legal_caps hc).2.2.2.1
  have word : used p.tx = 4 := by rw [tx]; rfl
  have one : burstWords c p = 1 := by unfold burstWords; omega
  have notHeld : ¬(p.men = false ∨ used p.tx < 4 ∨ free c.rxCap p.rx < 4) := by simp [men, word, room]
  rw [Spi.BurstOutcome, if_neg notHeld, if_neg (by omega)] at h
  obtain ⟨answers, length, lined, rfl⟩ := h
  rw [one] at length lined
  obtain ⟨a, rfl⟩ := List.length_eq_one_iff.1 length
  have answer : r = a := by simpa [peer] using lined
  simp [Spi.afterBurst, one, tx, rx, peer, answer, wordsOf_fifoOfWords]

end

/-! ### TCR -/

/-- Burst checks MEN itself, so the rule's own check adds nothing. -/
theorem spiWriteTcr_eq (c : Config) (v : Word) (p : Spi) : spiWriteTcr c v p = Spi.burst c 0x60 { p with tcr := v } := by
  unfold spiWriteTcr
  dsimp only
  split
  · rfl
  · rename_i men
    exact (Spi.burst_of_disabled c 0x60 (Bool.eq_false_iff.2 men)).symm

/-- Settles O34: the rule is a burst of the block with V in TCR, and no other invariant reads TCR. -/
theorem spiTcrWriteStoresThenBursts : Obligations.SpiTcrWriteStoresThenBursts := by
  intro s v hs
  have quiescent : Spi.Quiescent s.config { s.spi with tcr := v } := hs.spi
  have rule := spiWriteTcr_eq s.config v s.spi
  refine ⟨decode_register .write (.spi .tcr) v, fun men => ?disabled, ?burst⟩
  case disabled =>
    exact hs.exec_writeSpi (r := .tcr) (rule.trans (Spi.burst_of_disabled s.config 0x60 men)) quiescent
  case burst =>
    obtain ⟨q, outcome, settled⟩ := quiescent.settleable.burst_settled hs.legal 0x60
    refine ⟨q, outcome, ?_⟩
    rw [← settled]
    exact hs.exec_writeSpi_settled (r := .tcr) rule (quiescent.settleable.burst hs.legal 0x60)

/-! ### TDR -/

theorem spiWriteTdr_of_disabled (c : Config) (v : Word) {p : Spi} (men : p.men = false) :
    spiWriteTdr c v p = p.diag .moduleDisabled 0x64 := if_pos men

theorem spiWriteTdr_of_full (c : Config) (v : Word) {p : Spi} (men : p.men = true) (full : free c.txCap p.tx < 4) :
    spiWriteTdr c v p = p.diag .txFifoFull 0x64 := by
  simp [spiWriteTdr, men, full]

theorem spiWriteTdr_of_room (c : Config) (v : Word) {p : Spi} (men : p.men = true) (room : 4 ≤ free c.txCap p.tx) :
    spiWriteTdr c v p = Spi.burst c 0x64 { p.setMbf true with tx := pushWord p.tx v } := by
  simp [spiWriteTdr, men, Nat.not_lt.2 room]

/-- A TDR write with MEN set and room in tx, as a whole. -/
theorem State.Quiescent.exec_wrSpiTdr_of_room {s : State} (hs : s.Quiescent) (v : Word) (men : s.spi.men = true)
    (room : 4 ≤ free s.config.txCap s.spi.tx) :
    ∃ q : Spi, ({ s.spi with tx := s.spi.tx ++ fifoOfWords [v], sr := setBit s.spi.sr 24 true } : Spi).BurstOutcome
        s.config 0x64 q
      ∧ Machine.exec (.wrSpiTdr v) s = .next { s with spi := q.settled s.config, result := none } := by
  have queued := hs.settleable.setMbf.pushTx v (Nat.not_lt.2 room)
  obtain ⟨q, outcome, settled⟩ := queued.burst_settled hs.legal 0x64
  rw [fifoOfWords_singleton]
  refine ⟨q, outcome, ?_⟩
  rw [← settled]
  exact hs.exec_writeSpi_settled (r := .tdr) (spiWriteTdr_of_room s.config v men room) (queued.burst hs.legal 0x64)

/-- Settles O35: the two rejections leave a quiescent block, and the third way is a burst. -/
theorem spiTdrWriteQueuesThenBursts : Obligations.SpiTdrWriteQueuesThenBursts := fun s v hs =>
  ⟨decode_register .write (.spi .tdr) v,
    fun men => hs.exec_writeSpi (r := .tdr) (spiWriteTdr_of_disabled s.config v men) hs.spi,
    fun men full => hs.exec_writeSpi (r := .tdr) (spiWriteTdr_of_full s.config v men full) hs.spi,
    hs.exec_wrSpiTdr_of_room v⟩

/-! ### RDR -/

theorem popWord_fifoOfWords_cons (w : Word) (ws : List Word) :
    popWord (fifoOfWords (w :: ws)) = some (w, fifoOfWords ws) := popWord_append w (fifoOfWords ws)

theorem spiReadRdr_of_empty (c : Config) {p : Spi} (empty : p.rx = []) : spiReadRdr c p = (0, p) := by
  rw [spiReadRdr, empty]
  rfl

theorem spiReadRdr_of_word (c : Config) {p : Spi} {w : Word} {ws : List Word} (rx : p.rx = fifoOfWords (w :: ws)) :
    spiReadRdr c p = (w, (Spi.burst c 0x74 { p with rx := fifoOfWords ws, rdr := w }).updateStatus c) := by
  rw [spiReadRdr, rx, popWord_fifoOfWords_cons]
  dsimp only
  split
  · rfl
  · rename_i men
    rw [Spi.burst_of_disabled c 0x74 (Bool.eq_false_iff.2 men)]

/-- An RDR read with a word in rx, as a whole. -/
theorem State.Quiescent.exec_rdSpiRdr_of_word {s : State} (hs : s.Quiescent) {w : Word} {ws : List Word}
    (rx : s.spi.rx = fifoOfWords (w :: ws)) :
    ∃ q : Spi, ({ s.spi with rx := fifoOfWords ws, rdr := w } : Spi).BurstOutcome s.config 0x74 q
      ∧ Machine.exec .rdSpiRdr s = .next { s with spi := q.settled s.config, result := some w } := by
  have popped := hs.settleable.popRx (rx ▸ popWord_fifoOfWords_cons w ws)
  have after := popped.burst hs.legal 0x74
  obtain ⟨q, outcome, settled⟩ := popped.burst_settled hs.legal 0x74
  refine ⟨q, outcome, congrArg Host.Outcome.next ?_⟩
  rw [← settled, State.spiRead, hs.spi.updateStatus hs.legal, spiReadRdr_of_word s.config rx,
    Spi.settle s.config _ after.srClean (after.tx_le hs.legal)]

/-- Settles O36, by the two ways of the rule. -/
theorem spiRdrReadPopsThenBursts : Obligations.SpiRdrReadPopsThenBursts := by
  intro s x hs
  refine ⟨decode_register .read (.spi .rdr) x, fun empty => ?_, fun w ws rx => hs.exec_rdSpiRdr_of_word rx⟩
  have rule := spiReadRdr_of_empty s.config empty
  refine congrArg Host.Outcome.next ?_
  rw [hs.spiRead_eq (congrArg Prod.snd rule), rule]

/-- Settles O37: the write is a burst of one word, after which rx holds the answer alone and tx nothing, so that the read pops
it and its burst has nothing to send. -/
theorem theAnswerToAWordSentIsTheWordRead : Obligations.TheAnswerToAWordSentIsTheWordRead := by
  intro s v r rest hs men tx rx valid peer
  have room : 4 ≤ free s.config.txCap s.spi.tx := by
    rw [tx]
    exact (legal_caps hs.legal).1
  obtain ⟨q, sent, write⟩ := hs.exec_wrSpiTdr_of_room v men room
  obtain rfl := sent.of_one_word hs.legal men (by rw [tx]; rfl) rx valid peer
  have ht := hs.exec write
  obtain ⟨q', popped, read⟩ := ht.exec_rdSpiRdr_of_word (w := r) (ws := []) rfl
  obtain rfl := popped.of_tx_nil rfl
  refine ⟨_, _, write, ?events, rfl, rfl, read, rfl, rfl, rfl⟩
  case events =>
    simp only [newSpiEvents, Spi.settled_trace, Spi.settled_irq, List.append_assoc, List.drop_left]

end Sys2Proof.Machine

namespace Sys2Proof.Machine

/-! ## The LPSPI transfer engine (43_lpspi_transfer.md R200 to R220) -/

/-- Settles O6, by the bits of the two-source level. -/
theorem spiLevelReadsTdfAndRdfOnly : Obligations.SpiLevelReadsTdfAndRdfOnly := Spi.level_eq_terms

/-! ### The FIFOs (43_lpspi_transfer.md R200 to R203) -/

/-- The bytes of a word, by its value. -/
theorem byteOfWord_eq (w : Word) (i : Nat) : byteOfWord w i = BitVec.ofNat 8 (w.toNat / 2 ^ (8 * i)) := by
  apply BitVec.eq_of_toNat_eq
  rw [byteOfWord, BitVec.extractLsb'_toNat, BitVec.toNat_ofNat, Nat.shiftRight_eq_div_pow]

theorem fifoBytes_eq_ofNat (w : Word) :
    fifoBytes w = [BitVec.ofNat 8 w.toNat, BitVec.ofNat 8 (w.toNat / 2 ^ 8), BitVec.ofNat 8 (w.toNat / 2 ^ 16),
      BitVec.ofNat 8 (w.toNat / 2 ^ 24)] := by
  simp only [fifoBytes_eq, byteOfWord_eq, Nat.mul_zero, Nat.pow_zero, Nat.div_one]

/-- Settles O32, by what a push appends and what a pop takes. -/
theorem fifoReturnsWordsInOrder : Obligations.FifoReturnsWordsInOrder := by
  intro q w ws
  refine ⟨popWord_append w q, used_pushWord q w, ?pushed, wordsOf_fifoOfWords ws, popWord_eq_none q⟩
  case pushed =>
    rw [pushWord, used, List.drop_left, fifoBytes_eq_ofNat]

/-! ### The derived registers after a call, from any state (43_lpspi_transfer.md R205, R206)

Whatever its rule does, a call of the LPSPI ends with UpdateStatus and IrqUpdate. -/

@[simp] theorem Spi.irqUpdate_fsr (p : Spi) : p.irqUpdate.fsr = p.fsr := by rw [Spi.irqUpdate_eq]

@[simp] theorem Spi.irqUpdate_rsr (p : Spi) : p.irqUpdate.rsr = p.rsr := by rw [Spi.irqUpdate_eq]

theorem getLsbD_srOf (c : Config) (tx rx : List Byte) (sr : Word) (j : Nat) :
    (srOf c tx rx sr).getLsbD j
      = if j = 24 then mbfOf tx else if j = 1 then rdfOf rx else if j = 0 then tdfOf c tx else sr.getLsbD j := by
  rw [srOf, getLsbD_setBit _ _ _ _ (by omega), getLsbD_setBit _ _ _ _ (by omega), getLsbD_setBit _ _ _ _ (by omega)]

/-- No SR bit but the three derived ones has been set (decision D36). -/
structure StickyKept (before after : Word) : Prop where
  of_set : ∀ j, j ≠ 0 → j ≠ 1 → j ≠ 24 → after.getLsbD j = true → before.getLsbD j = true

section
variable {before mid after : Word}

theorem StickyKept.refl : StickyKept before before := ⟨fun _ _ _ _ set => set⟩

theorem StickyKept.trans (h : StickyKept before mid) (h' : StickyKept mid after) : StickyKept before after :=
  ⟨fun j tdf rdf mbf set => h.of_set j tdf rdf mbf (h'.of_set j tdf rdf mbf set)⟩

theorem StickyKept.mask_eq_zero (h : StickyKept before after) : after &&& ~~~0x01000003#32 &&& ~~~before = 0 := by
  apply BitVec.eq_of_getLsbD_eq
  intro j hj
  have derived : (0x01000003#32).getLsbD j = (decide (j = 0) || decide (j = 1) || decide (j = 24)) := by
    clear * - hj; revert j; decide
  have kept := h.of_set j
  rw [BitVec.getLsbD_and, BitVec.getLsbD_and, BitVec.getLsbD_not, BitVec.getLsbD_not, derived]
  cases set : after.getLsbD j <;> simp_all

end

theorem setBit_mbf_stickyKept (sr : Word) (b : Bool) : StickyKept sr (setBit sr 24 b) := by
  constructor
  intro j _ _ mbf set
  rwa [getLsbD_setBit _ _ _ _ (by omega), if_neg mbf] at set

theorem srOf_stickyKept (c : Config) (tx rx : List Byte) (sr : Word) : StickyKept sr (srOf c tx rx sr) := by
  constructor
  intro j tdf rdf mbf set
  rwa [getLsbD_srOf, if_neg mbf, if_neg rdf, if_neg tdf] at set

theorem w1cWrite_stickyKept (mask v reg : Word) : StickyKept reg (w1cWrite mask v reg) := by
  constructor
  intro j _ _ _ set
  rw [w1cWrite, BitVec.getLsbD_and, Bool.and_eq_true] at set
  exact set.1

/-- A reset leaves TDF alone for UpdateStatus to recompute. -/
theorem resetSr_stickyKept (sr : Word) : StickyKept sr 0x00000001 := by
  constructor
  intro j tdf _ _ set
  rw [show (0x00000001 : Word) = 1#32 from rfl, BitVec.getLsbD_one] at set
  simp [tdf] at set

theorem Spi.burstLoop_sr (c : Config) (line : Nat) (fuel : Nat) (p : Spi) :
    (Spi.burstLoop c line fuel p).sr = p.sr := by
  induction fuel generalizing p with
  | zero => rfl
  | succ fuel ih =>
    unfold Spi.burstLoop
    split
    · rfl
    · split
      · rfl
      · exact ih _

theorem Spi.runBurst_stickyKept (c : Config) (line : Nat) (p : Spi) : StickyKept p.sr (p.runBurst c line).sr := by
  have moved : (Spi.burstLoop c line (used p.tx / 4) (p.driveLine line false)).sr = p.sr := Spi.burstLoop_sr ..
  unfold Spi.runBurst
  dsimp only
  rw [Spi.irqUpdate_sr, Spi.updateStatus_sr]
  refine .trans ?_ (srOf_stickyKept ..)
  split
  · rw [Spi.setMbf_sr, Spi.driveLine_sr, moved]
    exact setBit_mbf_stickyKept p.sr false
  · rw [Spi.driveLine_sr, moved]
    exact .refl

theorem Spi.burst_stickyKept (c : Config) (off : Nat) (p : Spi) {before : Word} (h : StickyKept before p.sr) :
    StickyKept before (p.burst c off).sr := by
  unfold Spi.burst
  split
  · exact h
  split
  · exact h
  split
  · exact h
  · exact h.trans (p.runBurst_stickyKept c (pcsOf p.tcr))

theorem Spi.reset_stickyKept (c : Config) (p : Spi) : StickyKept p.sr (p.reset c).sr := by
  rw [Spi.reset, Spi.irqUpdate_sr, Spi.updateStatus_sr]
  exact (resetSr_stickyKept p.sr).trans (srOf_stickyKept ..)

theorem spiWriteCr_stickyKept (c : Config) (v : Word) (p : Spi) : StickyKept p.sr (spiWriteCr c v p).sr := by
  unfold spiWriteCr
  split
  · exact p.reset_stickyKept c
  · split <;> exact .refl

theorem spiWriteTcr_stickyKept (c : Config) (v : Word) (p : Spi) : StickyKept p.sr (spiWriteTcr c v p).sr := by
  rw [spiWriteTcr_eq]
  exact Spi.burst_stickyKept c 0x60 _ .refl

theorem spiWriteTdr_stickyKept (c : Config) (v : Word) (p : Spi) : StickyKept p.sr (spiWriteTdr c v p).sr := by
  unfold spiWriteTdr
  split
  · exact .refl
  split
  · exact .refl
  · exact Spi.burst_stickyKept c 0x64 _ (setBit_mbf_stickyKept p.sr true)

/-- The block is some `r` brought up to date, and `r` has no new sticky bit. -/
def Spi.UpdatedFrom (c : Config) (p q : Spi) : Prop :=
  ∃ r : Spi, StickyKept p.sr r.sr ∧ q = (r.updateStatus c).irqUpdate

/-- An RDR read that finds no word leaves the UpdateStatus before its rule as the last; one that pops ends with its own. -/
theorem spiReadRdr_updatedFrom (c : Config) (p : Spi) :
    p.UpdatedFrom c (spiReadRdr c (p.updateStatus c)).2.irqUpdate := by
  have before : StickyKept p.sr (p.updateStatus c).sr := srOf_stickyKept ..
  unfold spiReadRdr
  split
  · exact ⟨p, .refl, rfl⟩
  · refine ⟨_, ?_, rfl⟩
    split
    · exact Spi.burst_stickyKept c 0x74 _ before
    · exact before

theorem exec_spi_updatedFrom {i : Instr} {s t : State} (hi : blockOf i = .spi) (h : exec i s = .next t) :
    s.spi.UpdatedFrom s.config t.spi := by
  cases i with
  | rdSpiVerid | rdSpiParam | rdSpiCr | rdSpiSr | rdSpiIer | rdSpiDer | rdSpiCfgr0 | rdSpiCfgr1 | rdSpiCcr | rdSpiFcr
  | rdSpiFsr | rdSpiTcr | rdSpiTdr | rdSpiRsr => cases h; exact ⟨s.spi, .refl, rfl⟩
  | rdSpiUnmapped o => cases h; exact ⟨s.spi.diag _ _, .refl, rfl⟩
  | rdSpiRdr => cases h; exact spiReadRdr_updatedFrom _ _
  | wrSpiIer | wrSpiDer | wrSpiCfgr0 | wrSpiCfgr1 | wrSpiCcr | wrSpiFcr | wrSpiVerid | wrSpiParam | wrSpiFsr | wrSpiRsr
  | wrSpiRdr | wrSpiUnmapped =>
    cases h
    refine ⟨_, ?_, rfl⟩
    exact .refl
  | wrSpiCr v => cases h; exact ⟨_, spiWriteCr_stickyKept _ v _, rfl⟩
  | wrSpiSr v => cases h; exact ⟨_, w1cWrite_stickyKept _ v _, rfl⟩
  | wrSpiTcr v => cases h; exact ⟨_, spiWriteTcr_stickyKept _ v _, rfl⟩
  | wrSpiTdr v => cases h; exact ⟨_, spiWriteTdr_stickyKept _ v _, rfl⟩
  | rstSpi => cases h; exact ⟨_, resetSr_stickyKept _, rfl⟩
  | reservedK3 | reservedZ0 | reservedZ1 | reservedZ2 | reservedS3 | subword | misalignedB0 | misalignedB1 | evReserved =>
    cases h
  | _ => cases hi

/-- Settles O4: UpdateStatus computes the derived registers from the FIFOs, and what it is given has no new sticky bit. -/
theorem statusFollowsTheFifosAfterEveryLpspiCall : Obligations.StatusFollowsTheFifosAfterEveryLpspiCall := by
  intro i s t hi h
  obtain ⟨r, kept, heq⟩ := exec_spi_updatedFrom hi h
  have sr : t.spi.sr = srOf s.config t.spi.tx t.spi.rx r.sr := by simp [heq]
  refine ⟨by simp [heq, fsrOf], ?tdf, ?rdf, ?mbf, by simp [heq, rsrOf], ?sticky⟩
  case tdf => rw [Spi.tdf, sr, getLsbD_srOf]; rfl
  case rdf => rw [Spi.rdf, sr, getLsbD_srOf]; rfl
  case mbf => rw [Spi.mbf, sr, getLsbD_srOf]; rfl
  case sticky =>
    rw [sr]
    exact (kept.trans (srOf_stickyKept ..)).mask_eq_zero

/-! ### A burst as a whole (43_lpspi_transfer.md R210 to R215) -/

/-- Settles O33, by everything a burst can do; where it does nothing the block is settled already. -/
theorem burstMovesTheWordsItCan : Obligations.BurstMovesTheWordsItCan := by
  intro c off p hc hp
  obtain ⟨heq, outcome⟩ | ⟨heq, outcome, -, invalid⟩ | ⟨answers, heq, outcome, men, word, room, valid, -⟩ :=
    Spi.burst_cases c off p hp.settleable.txWords hp.settleable.lines hp.srClean (hp.tx_le hc)
  · exact ⟨p, outcome, by rw [heq, hp.settled, ite_self]⟩
  · exact ⟨_, outcome, by rw [heq, if_pos (.inr (.inr (.inr invalid)))]⟩
  · have runs : ¬(p.men = false ∨ used p.tx < 4 ∨ free c.rxCap p.rx < 4 ∨ c.numCs ≤ pcsOf p.tcr) := by
      simp only [men, reduceCtorEq, false_or]
      omega
    exact ⟨_, outcome, by rw [heq, if_neg runs]⟩

/-! ### What a call puts on the SPI bus (43_lpspi_transfer.md R211, R212) -/

/-- Whether an event is one that a peer on the bus sees. -/
def isBusEvent (e : Event) : Bool := isExchange e || isCsLevel e

/-- A trace grew, and these are the bus events it grew by. -/
def BusGrowth (before after bus : List Event) : Prop :=
  ∃ events, after = before ++ events ∧ events.filter isBusEvent = bus

/-- The bus events of a burst: its line low, the words swapped, its line high (43_lpspi_transfer.md R210). -/
def burstEvents (line : Nat) (words answers : List Word) : List Event :=
  .csLevel line false :: List.zipWith (fun w r => .exchange line w r) words answers ++ [.csLevel line true]

section
variable {before mid after bus bus' : List Event}

theorem BusGrowth.refl : BusGrowth before before [] := ⟨[], (List.append_nil _).symm, rfl⟩

theorem BusGrowth.of_append {events : List Event} (h : events.filter isBusEvent = bus) :
    BusGrowth before (before ++ events) bus := ⟨events, rfl, h⟩

theorem BusGrowth.trans (h : BusGrowth before mid bus) (h' : BusGrowth mid after bus') :
    BusGrowth before after (bus ++ bus') := by
  obtain ⟨events, rfl, rfl⟩ := h
  obtain ⟨events', rfl, rfl⟩ := h'
  exact ⟨events ++ events', List.append_assoc .., List.filter_append ..⟩

/-- An IRQ edge is no bus event. -/
theorem BusGrowth.edge (h : BusGrowth before after bus) (b : Block) (was now : Bool) :
    BusGrowth before (after ++ edge b was now) bus := by
  have quiet : (Machine.edge b was now).filter isBusEvent = [] := by
    unfold Machine.edge
    split <;> rfl
  simpa using h.trans (.of_append quiet)

theorem BusGrowth.irqUpdate {p : Spi} (h : BusGrowth before p.trace bus) : BusGrowth before p.irqUpdate.trace bus := by
  rw [Spi.irqUpdate_eq]
  exact h.edge ..

theorem BusGrowth.drop_filter (h : BusGrowth before after bus) : (after.drop before.length).filter isBusEvent = bus := by
  obtain ⟨events, rfl, rfl⟩ := h
  rw [List.drop_left]

end

theorem BusGrowth.filter_isCsLevel {before after bus : List Event} (h : BusGrowth before after bus) :
    (after.drop before.length).filter isCsLevel = bus.filter isCsLevel := by
  have seen : (fun e => isCsLevel e && isBusEvent e) = isCsLevel := by
    funext e
    cases e <;> rfl
  rw [← h.drop_filter, List.filter_filter, seen]

/-- With no bus event there is no exchange. -/
theorem BusGrowth.any_isExchange {before after : List Event} (h : BusGrowth before after []) :
    (after.drop before.length).any isExchange = false := by
  have quiet := List.filter_eq_nil_iff.1 h.drop_filter
  rw [List.any_eq_false]
  intro e he exchanged
  exact quiet e he (by simp [isBusEvent, exchanged])

theorem filter_burstEvents (line : Nat) (words answers : List Word) :
    (burstEvents line words answers).filter isBusEvent = burstEvents line words answers := by
  rw [List.filter_eq_self, burstEvents]
  intro e he
  rw [← List.map_uncurry_zip_eq_zipWith] at he
  simp only [List.cons_append, List.mem_cons, List.mem_append, List.mem_map, List.not_mem_nil, or_false] at he
  obtain rfl | ⟨_, _, rfl⟩ | rfl := he <;> rfl

theorem filter_burstEvents_csLevel (line : Nat) (words answers : List Word) :
    (burstEvents line words answers).filter isCsLevel = [.csLevel line false, .csLevel line true] := by
  have exchanges := filter_exchanges (keep := isCsLevel) (line := line) (fun _ _ => rfl) words answers
  have lineEvent (level : Bool) : isCsLevel (.csLevel line level) = true := rfl
  simp [burstEvents, exchanges, lineEvent]

/-- What the trace of a block may show of the bus: nothing, or one burst of an enabled block on the line that PCS names. -/
def Spi.AtMostOneBurst (c : Config) (p q : Spi) : Prop :=
  BusGrowth p.trace q.trace []
    ∨ p.men = true ∧ pcsOf q.tcr < c.numCs
      ∧ ∃ words answers, BusGrowth p.trace q.trace (burstEvents (pcsOf q.tcr) words answers)

theorem Spi.BurstOutcome.atMostOneBurst {c : Config} {off : Nat} {p q : Spi} (h : p.BurstOutcome c off q) :
    p.AtMostOneBurst c (q.settled c) := by
  unfold Spi.BurstOutcome at h
  split at h
  · subst h
    exact .inl (BusGrowth.refl.edge ..)
  split at h
  · subst h
    exact .inl ((BusGrowth.of_append rfl).edge ..)
  · rename_i held valid
    obtain ⟨answers, -, -, rfl⟩ := h
    refine .inr ⟨eq_true_of_ne_false fun men => held (.inl men), Nat.lt_of_not_le valid, wordsOf p.tx, answers, ?_⟩
    exact (BusGrowth.of_append (filter_burstEvents ..)).edge ..

/-- The calls that run a burst (43_lpspi_transfer.md R211). -/
def runsBurst : Instr → Bool
  | .wrSpiTdr _ | .wrSpiTcr _ | .rdSpiRdr => true
  | _ => false

theorem runsBurst_eq_true {i : Instr} (h : runsBurst i = true) :
    (∃ v, i = .wrSpiTdr v) ∨ (∃ v, i = .wrSpiTcr v) ∨ i = .rdSpiRdr := by
  cases i with
  | wrSpiTdr v => exact .inl ⟨v, rfl⟩
  | wrSpiTcr v => exact .inr (.inl ⟨v, rfl⟩)
  | rdSpiRdr => exact .inr (.inr rfl)
  | _ => cases h

theorem Spi.Quiescent.reset_busGrowth {c : Config} {p : Spi} (h : p.Quiescent c) (hc : c.legal = true) :
    BusGrowth p.trace (p.reset c).trace [] := by
  rw [h.reset_eq hc]
  exact BusGrowth.refl.edge ..

theorem Spi.Quiescent.spiWriteCr_busGrowth {c : Config} {p : Spi} (h : p.Quiescent c) (hc : c.legal = true) (v : Word) :
    BusGrowth p.trace (spiWriteCr c v p).trace [] := by
  unfold spiWriteCr
  split
  · exact h.reset_busGrowth hc
  · split <;> exact .refl

section
variable {s : State} (hs : s.Quiescent) {i : Instr} {t : State}
include hs

/-- A call that runs no burst is silent on the bus. -/
theorem State.Quiescent.exec_busGrowth_nil (hi : runsBurst i = false) (h : Machine.exec i s = .next t) :
    BusGrowth s.spi.trace t.spi.trace [] := by
  cases i with
  | rdSpiVerid | rdSpiParam | rdSpiCr | rdSpiSr | rdSpiIer | rdSpiDer | rdSpiCfgr0 | rdSpiCfgr1 | rdSpiCcr | rdSpiFcr
  | rdSpiFsr | rdSpiTcr | rdSpiTdr | rdSpiRsr | wrSpiSr | wrSpiIer | wrSpiDer | wrSpiCfgr0 | wrSpiCfgr1 | wrSpiCcr
  | wrSpiFcr =>
    cases h
    refine BusGrowth.irqUpdate ?_
    exact .refl
  | rdSpiUnmapped | wrSpiVerid | wrSpiParam | wrSpiFsr | wrSpiRsr | wrSpiRdr | wrSpiUnmapped =>
    cases h
    refine BusGrowth.irqUpdate ?_
    exact .of_append rfl
  | wrSpiCr v =>
    cases h
    refine BusGrowth.irqUpdate ?_
    exact hs.spi.spiWriteCr_busGrowth hs.legal v
  | rstSpi => cases h; exact hs.spi.reset_busGrowth hs.legal
  | wrSpiTdr | wrSpiTcr | rdSpiRdr => cases hi
  | _ => cases h <;> exact .refl

/-- A TDR write is rejected, or a burst. -/
theorem State.Quiescent.exec_wrSpiTdr_atMostOneBurst {v : Word} (h : Machine.exec (.wrSpiTdr v) s = .next t) :
    s.spi.AtMostOneBurst s.config t.spi := by
  obtain ⟨-, disabled, full, queued⟩ := spiTdrWriteQueuesThenBursts s v hs
  cases men : s.spi.men with
  | false =>
    cases (disabled men).symm.trans h
    exact .inl (.of_append rfl)
  | true =>
    obtain held | room := Nat.lt_or_ge (free s.config.txCap s.spi.tx) 4
    · cases (full men held).symm.trans h
      exact .inl (.of_append rfl)
    · obtain ⟨q, outcome, heq⟩ := queued men room
      cases heq.symm.trans h
      exact outcome.atMostOneBurst

theorem State.Quiescent.exec_wrSpiTcr_atMostOneBurst {v : Word} (h : Machine.exec (.wrSpiTcr v) s = .next t) :
    s.spi.AtMostOneBurst s.config t.spi := by
  obtain ⟨-, -, q, outcome, heq⟩ := spiTcrWriteStoresThenBursts s v hs
  cases heq.symm.trans h
  exact outcome.atMostOneBurst

/-- An RDR read finds no word, or pops one and is a burst. -/
theorem State.Quiescent.exec_rdSpiRdr_atMostOneBurst (h : Machine.exec .rdSpiRdr s = .next t) :
    s.spi.AtMostOneBurst s.config t.spi := by
  obtain ⟨-, empty, popped⟩ := spiRdrReadPopsThenBursts s 0 hs
  have rx := eq_fifoOfWords_of_length s.spi.rx hs.settleable.rxWords
  cases words : wordsOf s.spi.rx with
  | nil =>
    rw [words] at rx
    cases (empty rx).symm.trans h
    exact .inl .refl
  | cons w ws =>
    rw [words] at rx
    obtain ⟨q, outcome, heq⟩ := popped w ws rx
    cases heq.symm.trans h
    exact outcome.atMostOneBurst

theorem State.Quiescent.exec_atMostOneBurst (h : Machine.exec i s = .next t) : s.spi.AtMostOneBurst s.config t.spi := by
  cases hi : runsBurst i with
  | false => exact .inl (hs.exec_busGrowth_nil hi h)
  | true =>
    cases i with
    | wrSpiTdr v => exact hs.exec_wrSpiTdr_atMostOneBurst h
    | wrSpiTcr v => exact hs.exec_wrSpiTcr_atMostOneBurst h
    | rdSpiRdr => exact hs.exec_rdSpiRdr_atMostOneBurst h
    | _ => cases hi

end

/-- Settles O39: a call with an exchange is not silent on the bus, so it runs a burst, with MEN set. -/
theorem onlyThreeCallsExchangeWords : Obligations.OnlyThreeCallsExchangeWords := by
  intro i s t hs h exchanged
  have heard : ¬BusGrowth s.spi.trace t.spi.trace [] := fun silent =>
    Bool.false_ne_true (silent.any_isExchange.symm.trans exchanged)
  obtain silent | ⟨men, -⟩ := hs.exec_atMostOneBurst h
  · exact absurd silent heard
  · cases hi : runsBurst i with
    | false => exact absurd (hs.exec_busGrowth_nil hi h) heard
    | true => exact ⟨men, runsBurst_eq_true hi⟩

/-- Settles O40: the only line events on the bus are the two that frame the one burst a call may run. -/
theorem aLineMovesLowThenHighOnceOrNotAtAll : Obligations.ALineMovesLowThenHighOnceOrNotAtAll := by
  intro i s t hs h
  obtain silent | ⟨-, valid, words, answers, burst⟩ := hs.exec_atMostOneBurst h
  · exact .inl silent.filter_isCsLevel
  · exact .inr ⟨valid, burst.filter_isCsLevel.trans (filter_burstEvents_csLevel ..)⟩

end Sys2Proof.Machine

namespace Sys2Proof.Machine

/-! ## Every call returns, with at most one diagnostic (60_exceptions.md R232, R235, R236) -/

/-- Settles O44: the arms of `exec` for the refusal rows answer a refusal, and every other arm a next state. -/
theorem everyCallButARefusedOneReturns : Obligations.EveryCallButARefusedOneReturns := by
  intro i s
  cases i with
  | reservedK3 | reservedZ0 | reservedZ1 | reservedZ2 | reservedS3 | subword | misalignedB0 | misalignedB1 | evReserved =>
    exact ⟨nofun, fun _ => ⟨_, rfl⟩⟩
  | _ => exact ⟨fun _ => ⟨_, rfl⟩, nofun⟩

/-- A trace grew, by at most `n` diagnostics among the events it grew by. -/
def DiagGrowth (n : Nat) (before after : List Event) : Prop :=
  ∃ events, after = before ++ events ∧ events.countP isDiag ≤ n

section
variable {m n : Nat} {before mid after : List Event}

theorem DiagGrowth.of_append {events : List Event} (h : events.countP isDiag ≤ n) :
    DiagGrowth n before (before ++ events) := ⟨events, rfl, h⟩

theorem DiagGrowth.refl : DiagGrowth n before before := ⟨[], (List.append_nil _).symm, Nat.zero_le n⟩

theorem DiagGrowth.trans (h : DiagGrowth m before mid) (h' : DiagGrowth n mid after) :
    DiagGrowth (m + n) before after := by
  obtain ⟨events, rfl, few⟩ := h
  obtain ⟨events', rfl, few'⟩ := h'
  exact ⟨events ++ events', List.append_assoc .., by rw [List.countP_append]; exact Nat.add_le_add few few'⟩

/-- One event more is at most one diagnostic more. -/
theorem DiagGrowth.of_event (e : Event) : DiagGrowth 1 before (before ++ [e]) := .of_append List.countP_le_length

theorem DiagGrowth.isPrefix (h : DiagGrowth n before after) : before <+: after := by
  obtain ⟨events, rfl, -⟩ := h
  exact List.prefix_append ..

theorem DiagGrowth.countP_drop_le (h : DiagGrowth n before after) : (after.drop before.length).countP isDiag ≤ n := by
  obtain ⟨events, rfl, few⟩ := h
  rwa [List.drop_left]

/-- An IRQ edge is no diagnostic. -/
theorem DiagGrowth.edge (h : DiagGrowth n before after) (b : Block) (was now : Bool) :
    DiagGrowth n before (after ++ edge b was now) := by
  refine h.trans (n := 0) (.of_append ?_)
  unfold Machine.edge
  split <;> exact Nat.le_refl 0

theorem DiagGrowth.uartIrqUpdate {u : Uart} (h : DiagGrowth n before u.trace) :
    DiagGrowth n before u.irqUpdate.trace := by
  rw [Uart.irqUpdate_eq]
  exact h.edge ..

theorem DiagGrowth.spiIrqUpdate {p : Spi} (h : DiagGrowth n before p.trace) :
    DiagGrowth n before p.irqUpdate.trace := by
  rw [Spi.irqUpdate_eq]
  exact h.edge ..

end

/-! ### The LPUART -/

theorem uartWriteData_diagGrowth (v : Word) (u : Uart) : DiagGrowth 1 u.trace (uartWriteData v u).trace := by
  unfold uartWriteData
  split
  · exact .of_event _
  · exact .refl

theorem uartRxByte_diagGrowth (b : Byte) (u : Uart) : DiagGrowth 1 u.trace (uartRxByte b u).trace := by
  refine DiagGrowth.uartIrqUpdate ?_
  split <;> exact .refl

/-- A rule of the LPUART emits at most one event, and IrqUpdate adds no diagnostic. -/
theorem exec_uart_diagGrowth {i : Instr} {s t : State} (hi : blockOf i = .uart) (h : exec i s = .next t) :
    DiagGrowth 1 s.uart.trace t.uart.trace := by
  cases i with
  | rdUartBaud | rdUartStat | rdUartCtrl | wrUartStat | wrUartCtrl | rstUart =>
    cases h
    refine DiagGrowth.uartIrqUpdate ?_
    exact .refl
  | rdUartData | wrUartBaud | rdUartUnmapped | wrUartUnmapped =>
    cases h
    refine DiagGrowth.uartIrqUpdate ?_
    exact .of_event _
  | wrUartData v => cases h; exact (uartWriteData_diagGrowth v _).uartIrqUpdate
  | evUartRxbyte b => cases h; exact uartRxByte_diagGrowth b _
  | reservedK3 | reservedZ0 | reservedZ1 | reservedZ2 | reservedS3 | subword | misalignedB0 | misalignedB1 | evReserved =>
    cases h
  | _ => cases hi

/-! ### The LPSPI: the events of a burst and of a reset are no diagnostics, from any state -/

theorem Spi.burstLoop_diagGrowth (c : Config) (line : Nat) (fuel : Nat) (p : Spi) :
    DiagGrowth 0 p.trace (Spi.burstLoop c line fuel p).trace := by
  induction fuel generalizing p with
  | zero => exact .refl
  | succ fuel ih =>
    unfold Spi.burstLoop
    split
    · exact .refl
    split
    · exact .refl
    · rename_i w tx' _ _
      have exchanged : DiagGrowth 0 p.trace (Spi.exchange line w { p with tx := tx' }).trace := .of_append (Nat.le_refl 0)
      exact exchanged.trans (ih _)

theorem Spi.runBurst_diagGrowth (c : Config) (line : Nat) (p : Spi) : DiagGrowth 0 p.trace (p.runBurst c line).trace := by
  have asserted : DiagGrowth 0 p.trace (p.driveLine line false).trace := .of_append (Nat.le_refl 0)
  have moved := asserted.trans (Spi.burstLoop_diagGrowth c line (used p.tx / 4) _)
  unfold Spi.runBurst
  dsimp only
  refine (moved.trans (n := 0) ?_).spiIrqUpdate
  split <;> exact .of_append (Nat.le_refl 0)

/-- A bad chip-select index is the one diagnostic of `Burst`, and then no word moves. -/
theorem Spi.burst_diagGrowth (c : Config) (off : Nat) (p : Spi) : DiagGrowth 1 p.trace (p.burst c off).trace := by
  unfold Spi.burst
  split
  · exact .refl
  split
  · exact .refl
  split
  · exact .of_event _
  · exact (p.runBurst_diagGrowth c _).trans (n := 1) .refl

theorem countP_isDiag_releaseEvents (lines : List Bool) (i : Nat) : (releaseEvents i lines).countP isDiag = 0 := by
  induction lines generalizing i with
  | nil => rfl
  | cons high rest ih =>
    cases high with
    | true => exact ih (i + 1)
    | false => exact (List.countP_cons_of_neg Bool.false_ne_true).trans (ih (i + 1))

theorem Spi.reset_diagGrowth (c : Config) (p : Spi) : DiagGrowth 1 p.trace (p.reset c).trace := by
  refine DiagGrowth.spiIrqUpdate ?_
  exact .of_append (by rw [countP_isDiag_releaseEvents]; exact Nat.zero_le 1)

theorem spiWriteCr_diagGrowth (c : Config) (v : Word) (p : Spi) : DiagGrowth 1 p.trace (spiWriteCr c v p).trace := by
  unfold spiWriteCr
  split
  · exact p.reset_diagGrowth c
  · split <;> exact .refl

theorem spiWriteTcr_diagGrowth (c : Config) (v : Word) (p : Spi) : DiagGrowth 1 p.trace (spiWriteTcr c v p).trace := by
  rw [spiWriteTcr_eq]
  exact Spi.burst_diagGrowth c 0x60 _

/-- A rejected TDR write runs no burst. -/
theorem spiWriteTdr_diagGrowth (c : Config) (v : Word) (p : Spi) : DiagGrowth 1 p.trace (spiWriteTdr c v p).trace := by
  unfold spiWriteTdr
  split
  · exact .of_event _
  split
  · exact .of_event _
  · exact Spi.burst_diagGrowth c 0x64 _

theorem spiReadRdr_diagGrowth (c : Config) (p : Spi) : DiagGrowth 1 p.trace (spiReadRdr c p).2.trace := by
  unfold spiReadRdr
  split
  · exact .refl
  · dsimp only
    rw [Spi.updateStatus_trace]
    split
    · exact Spi.burst_diagGrowth c 0x74 _
    · exact .refl

/-- A rule of the LPSPI emits at most one diagnostic, and UpdateStatus and IrqUpdate add none. -/
theorem exec_spi_diagGrowth {i : Instr} {s t : State} (hi : blockOf i = .spi) (h : exec i s = .next t) :
    DiagGrowth 1 s.spi.trace t.spi.trace := by
  cases i with
  | rdSpiVerid | rdSpiParam | rdSpiCr | rdSpiSr | rdSpiIer | rdSpiDer | rdSpiCfgr0 | rdSpiCfgr1 | rdSpiCcr | rdSpiFcr
  | rdSpiFsr | rdSpiTcr | rdSpiTdr | rdSpiRsr | wrSpiSr | wrSpiIer | wrSpiDer | wrSpiCfgr0 | wrSpiCfgr1 | wrSpiCcr
  | wrSpiFcr =>
    cases h
    refine DiagGrowth.spiIrqUpdate ?_
    exact .refl
  | rdSpiUnmapped | wrSpiVerid | wrSpiParam | wrSpiFsr | wrSpiRsr | wrSpiRdr | wrSpiUnmapped =>
    cases h
    refine DiagGrowth.spiIrqUpdate ?_
    exact .of_event _
  | rdSpiRdr => cases h; exact (spiReadRdr_diagGrowth _ (s.spi.updateStatus s.config)).spiIrqUpdate
  | wrSpiCr v => cases h; exact DiagGrowth.spiIrqUpdate (spiWriteCr_diagGrowth _ v s.spi)
  | wrSpiTcr v => cases h; exact DiagGrowth.spiIrqUpdate (spiWriteTcr_diagGrowth _ v s.spi)
  | wrSpiTdr v => cases h; exact DiagGrowth.spiIrqUpdate (spiWriteTdr_diagGrowth _ v s.spi)
  | rstSpi => cases h; exact s.spi.reset_diagGrowth s.config
  | reservedK3 | reservedZ0 | reservedZ1 | reservedZ2 | reservedS3 | subword | misalignedB0 | misalignedB1 | evReserved =>
    cases h
  | _ => cases hi

/-- The block that is called may emit a diagnostic; the other's trace stays as it is. -/
theorem exec_diagGrowth {i : Instr} {s t : State} (h : exec i s = .next t) :
    ∃ m n, DiagGrowth m s.uart.trace t.uart.trace ∧ DiagGrowth n s.spi.trace t.spi.trace ∧ m + n ≤ 1 := by
  cases hi : blockOf i with
  | uart =>
    obtain ⟨ht, -⟩ := exec_uart_local hi h
    have spi : t.spi = s.spi := (congrArg State.spi ht :)
    exact ⟨1, 0, exec_uart_diagGrowth hi h, spi ▸ .refl, Nat.le_refl 1⟩
  | spi =>
    obtain ⟨ht, -⟩ := exec_spi_local hi h
    have uart : t.uart = s.uart := (congrArg State.uart ht :)
    exact ⟨0, 1, uart ▸ .refl, exec_spi_diagGrowth hi h, Nat.le_refl 1⟩

/-- Settles O48, by what a call adds to each trace. -/
theorem aCallAppendsAtMostOneDiagnostic : Obligations.ACallAppendsAtMostOneDiagnostic := by
  intro i s t h
  obtain ⟨m, n, uart, spi, few⟩ := exec_diagGrowth h
  exact ⟨uart.isPrefix, spi.isPrefix, (Nat.add_le_add uart.countP_drop_le spi.countP_drop_le).trans few⟩

end Sys2Proof.Machine

namespace Sys2Proof.Machine

/-! ## Reset and hazards (70_reset_and_hazards.md R265, R270, R272) -/

/-! ### Reads after a reset of both blocks -/

/-- After both resets the blocks are as created, but for their traces and the answers that the host lined up. -/
theorem exec_resets_created {s t u : State} (hc : s.config.legal = true) (lines : s.spi.cs.length = s.config.numCs)
    (ht : exec .rstUart s = .next t) (hu : exec .rstSpi t = .next u) :
    u.config = s.config ∧ (∃ trace, u.uart = { (Uart.created s.config) with trace := trace })
      ∧ ∃ answers trace, u.spi = { (Spi.created s.config) with peerAnswers := answers, trace := trace } := by
  cases ht
  cases hu
  exact ⟨rfl, ⟨_, Uart.reset_eq s.config s.uart⟩, _, _, Spi.reset_eq s.config s.spi hc lines⟩

/-- With CTRL clear and the cell empty a DATA read only emits RxRoom. -/
theorem exec_rdUartData_of_created {c : Config} {s : State} {trace : List Event}
    (created : s.uart = { (Uart.created c) with trace := trace }) :
    exec .rdUartData s = .next { s with
      uart := { s.uart with trace := s.uart.trace ++ [.rxRoom] }, result := some 0 } := by
  have quiescent : s.uart.Quiescent := created ▸ Uart.created_quiescent c
  have tie : s.uart.tie = false := by simp [Uart.tie, created, Uart.created]
  have noEdge : edge .uart s.uart.irq false = [] := by simp [edge, created, Uart.created]
  rw [quiescent.exec_rdUartData, tie, noEdge, List.append_nil, created]
  rfl

/-- Settles O29: each register stores what it did at creation, and the reads of DATA, TDR and RDR find no byte and no word. -/
theorem readsAfterResetGiveTheDocumentedConstants : Obligations.ReadsAfterResetGiveTheDocumentedConstants := by
  intro s t u hc lines ht hu
  obtain ⟨config, ⟨uartTrace, uart⟩, answers, spiTrace, spi⟩ := exec_resets_created hc lines ht hu
  have quiescent : u.Quiescent := by
    rw [State.Quiescent, config, uart, spi]
    exact ⟨hc, Uart.created_quiescent s.config, Spi.created_quiescent hc⟩
  have stored (n : RegName) : u.stored n = (State.created s.config s.clockHz).stored n := by
    obtain r | r := n <;> rw [State.stored, State.stored]
    · rw [uart]; cases r <;> rfl
    · rw [config, spi]; cases r <;> rfl
  have read {n : RegName} (hn : n ≠ .spi .rdr) {w : Word} (hw : (State.created s.config s.clockHz).stored n = some w) :=
    quiescent.exec_readInstr ((stored n).trans hw) hn
  have noWord : u.spi.rx = [] := by rw [spi]; rfl
  obtain ⟨-, readRdr, -⟩ := spiRdrReadPopsThenBursts u 0 quiescent
  refine ⟨read (n := .uart .baud) nofun rfl, read (n := .uart .stat) nofun rfl, read (n := .uart .ctrl) nofun rfl,
    exec_rdUartData_of_created uart, read (n := .spi .verid) nofun rfl, read (n := .spi .param) nofun rfl,
    read (n := .spi .sr) nofun rfl, read (n := .spi .rsr) nofun rfl, ?zeros⟩
  case zeros =>
    simp only [List.forall_mem_cons]
    exact ⟨read (n := .spi .cr) nofun rfl, read (n := .spi .ier) nofun rfl, read (n := .spi .der) nofun rfl,
      read (n := .spi .cfgr0) nofun rfl, read (n := .spi .cfgr1) nofun rfl, read (n := .spi .ccr) nofun rfl,
      read (n := .spi .fcr) nofun rfl, read (n := .spi .fsr) nofun rfl, read (n := .spi .tcr) nofun rfl,
      quiescent.exec_rdSpiTdr, readRdr noWord, List.forall_mem_nil _⟩

/-! ### Back-pressure -/

/-- A burst without room in rx for an answer changes nothing. -/
theorem Spi.BurstOutcome.of_rx_full {c : Config} {off : Nat} {p q : Spi} (h : p.BurstOutcome c off q)
    (full : free c.rxCap p.rx < 4) : q = p := by
  rwa [Spi.BurstOutcome, if_pos (.inr (.inr full))] at h

/-- Settles O38: the write queues the word and its burst is held back; the MBF it has set is the one tx gives. -/
theorem backPressureQueuesTheWord : Obligations.BackPressureQueuesTheWord := by
  intro s v hs men full room
  obtain ⟨q, outcome, write⟩ := hs.exec_wrSpiTdr_of_room v men room
  obtain rfl := outcome.of_rx_full full
  exact write

/-! ### SETB and CLRB on the W1C registers -/

theorem readThenWrite_of_read {n : RegName} {s t : State} (f : Word → Word) (read : exec (readInstr n) s = .next t) :
    readThenWrite n f s = exec (writeInstr (f (t.result.getD 0)) n) t := by
  rw [readThenWrite, read]

section
variable {s : State} (hs : s.Quiescent) (f : Word → Word)
include hs

/-- The read changes nothing but the returned value, so the write of any word starts from a quiescent point too. -/
theorem State.Quiescent.readThenWrite_uartStat :
    readThenWrite (.uart .stat) f s = .next { s with result := none } := by
  have read := hs.exec_rdUartStat
  rw [readThenWrite_of_read (n := .uart .stat) f read]
  exact (hs.exec read).exec_wrUartStat _

@[inherit_doc State.Quiescent.readThenWrite_uartStat]
theorem State.Quiescent.readThenWrite_spiSr : readThenWrite (.spi .sr) f s = .next { s with result := none } := by
  have read := hs.exec_rdSpiSr
  rw [readThenWrite_of_read (n := .spi .sr) f read]
  exact (hs.exec read).exec_wrSpiSr _

end

/-- Settles O49: both are a read, then a write of some word. -/
theorem readModifyWriteOfAW1cRegisterChangesNothing : Obligations.ReadModifyWriteOfAW1cRegisterChangesNothing :=
  fun _ _ hs => ⟨hs.readThenWrite_uartStat _, hs.readThenWrite_uartStat _, hs.readThenWrite_spiSr _,
    hs.readThenWrite_spiSr _⟩

end Sys2Proof.Machine
